-- ==== Sys2Proof/Word.lean ====
section
/-! DEFINITION. The widths of the machine's values (00_scope.md R6, R7; 10_state.md R13). -/

namespace Sys2Proof

/-- A memory cell, a general register, a timer, an immediate `kk`: 8 bits. -/
abbrev Byte := BitVec 8

/-- An instruction word, `I`, `PC`, a stack entry: 16 bits. -/
abbrev Word := BitVec 16

/-- The address operand `nnn`: 12 bits. -/
abbrev Addr12 := BitVec 12

/-- One hexadecimal digit of an instruction word. -/
abbrev Nibble := BitVec 4

/-- The index of a general register, 0x0 to 0xF (R14): never an operand of arithmetic. -/
abbrev RegIdx := Fin 16

end Sys2Proof
end

