-- ==== Sys2Proof/Syntax.lean ====
section
/-! DEFINITION. The instruction set: one constructor per row of 30_encoding.md R58, in the table's order.
Register fields are indices, `kk` is a byte, `nnn` twelve bits, and `n` a count (R57). -/

namespace Sys2Proof

/-- The 34 instructions of 30_encoding.md R58; each docstring gives the document's pattern. -/
inductive Instr where
  /-- 00E0 -/
  | cls
  /-- 00EE -/
  | ret
  /-- 1nnn -/
  | jp (nnn : Addr12)
  /-- 2nnn -/
  | call (nnn : Addr12)
  /-- 3xkk -/
  | seByte (x : RegIdx) (kk : Byte)
  /-- 4xkk -/
  | sneByte (x : RegIdx) (kk : Byte)
  /-- 5xy0 -/
  | seReg (x y : RegIdx)
  /-- 6xkk -/
  | ldByte (x : RegIdx) (kk : Byte)
  /-- 7xkk -/
  | addByte (x : RegIdx) (kk : Byte)
  /-- 8xy0 -/
  | ldReg (x y : RegIdx)
  /-- 8xy1 -/
  | orReg (x y : RegIdx)
  /-- 8xy2 -/
  | andReg (x y : RegIdx)
  /-- 8xy3 -/
  | xorReg (x y : RegIdx)
  /-- 8xy4 -/
  | addReg (x y : RegIdx)
  /-- 8xy5 -/
  | subReg (x y : RegIdx)
  /-- 8xy6: `y` is encoded and ignored (R60) -/
  | shr (x y : RegIdx)
  /-- 8xy7 -/
  | subnReg (x y : RegIdx)
  /-- 8xyE: `y` is encoded and ignored (R60) -/
  | shl (x y : RegIdx)
  /-- 9xy0 -/
  | sneReg (x y : RegIdx)
  /-- Annn -/
  | ldI (nnn : Addr12)
  /-- Bnnn -/
  | jpV0 (nnn : Addr12)
  /-- Cxkk -/
  | rnd (x : RegIdx) (kk : Byte)
  /-- Dxyn: `n` counts sprite rows -/
  | drw (x y : RegIdx) (n : Nat)
  /-- Ex9E -/
  | skp (x : RegIdx)
  /-- ExA1 -/
  | sknp (x : RegIdx)
  /-- Fx07 -/
  | ldVxDt (x : RegIdx)
  /-- Fx0A -/
  | ldVxK (x : RegIdx)
  /-- Fx15 -/
  | ldDtVx (x : RegIdx)
  /-- Fx18 -/
  | ldStVx (x : RegIdx)
  /-- Fx1E -/
  | addI (x : RegIdx)
  /-- Fx29 -/
  | ldF (x : RegIdx)
  /-- Fx33 -/
  | ldB (x : RegIdx)
  /-- Fx55 -/
  | stRegs (x : RegIdx)
  /-- Fx65 -/
  | ldRegs (x : RegIdx)
  deriving DecidableEq, Repr

end Sys2Proof
end

