-- ==== Sys2Proof/Decode.lean ====
section
/-! DEFINITION. Decoder and encoder (30_encoding.md). The decoder follows the procedure of R59, is total on any
bytes and rejects by name; the encoder is written from the formats of R56 and the patterns of R58; the opcode map
of R58 stands beside them as data. -/

namespace Sys2Proof

/-! ### Fields (R55) -/

/-- `op`, the opcode family: bits 15:12. -/
def fieldOp (w : Word) : Nibble := w.extractLsb' 12 4

/-- `x`: bits 11:8. -/
def fieldX (w : Word) : RegIdx := (w.extractLsb' 8 4).toFin

/-- `y`: bits 7:4. -/
def fieldY (w : Word) : RegIdx := (w.extractLsb' 4 4).toFin

/-- `n`: bits 3:0. -/
def fieldN (w : Word) : Nibble := w.extractLsb' 0 4

/-- `kk`: bits 7:0. -/
def fieldKK (w : Word) : Byte := w.extractLsb' 0 8

/-- `nnn`: bits 11:0. -/
def fieldNNN (w : Word) : Addr12 := w.extractLsb' 0 12

/-! ### The decoder (R59) -/

/-- Why bytes are no instruction. -/
inductive Reject where
  /-- the word matches no row of R58: the tag `Unsupported` of R59, R61 -/
  | unsupported (w : Word)
  /-- fewer than two bytes were given (R54: every instruction is two bytes long) -/
  | truncated
  deriving DecidableEq, Repr

/-- Family 0: the whole word is fixed. -/
def decodeFamily0 (w : Word) : Except Reject Instr :=
  if w = 0x00E0#16 then .ok .cls else if w = 0x00EE#16 then .ok .ret else .error (.unsupported w)

/-- Family 8: the low nibble selects. -/
def decodeFamily8 (w : Word) : Except Reject Instr :=
  match (fieldN w).toNat with
  | 0x0 => .ok (.ldReg (fieldX w) (fieldY w))
  | 0x1 => .ok (.orReg (fieldX w) (fieldY w))
  | 0x2 => .ok (.andReg (fieldX w) (fieldY w))
  | 0x3 => .ok (.xorReg (fieldX w) (fieldY w))
  | 0x4 => .ok (.addReg (fieldX w) (fieldY w))
  | 0x5 => .ok (.subReg (fieldX w) (fieldY w))
  | 0x6 => .ok (.shr (fieldX w) (fieldY w))
  | 0x7 => .ok (.subnReg (fieldX w) (fieldY w))
  | 0xE => .ok (.shl (fieldX w) (fieldY w))
  | _ => .error (.unsupported w)

/-- Family E: the low byte selects. -/
def decodeFamilyE (w : Word) : Except Reject Instr :=
  match (fieldKK w).toNat with
  | 0x9E => .ok (.skp (fieldX w))
  | 0xA1 => .ok (.sknp (fieldX w))
  | _ => .error (.unsupported w)

/-- Family F: the low byte selects. -/
def decodeFamilyF (w : Word) : Except Reject Instr :=
  match (fieldKK w).toNat with
  | 0x07 => .ok (.ldVxDt (fieldX w))
  | 0x0A => .ok (.ldVxK (fieldX w))
  | 0x15 => .ok (.ldDtVx (fieldX w))
  | 0x18 => .ok (.ldStVx (fieldX w))
  | 0x1E => .ok (.addI (fieldX w))
  | 0x29 => .ok (.ldF (fieldX w))
  | 0x33 => .ok (.ldB (fieldX w))
  | 0x55 => .ok (.stRegs (fieldX w))
  | 0x65 => .ok (.ldRegs (fieldX w))
  | _ => .error (.unsupported w)

/-- The decoder of R59: the family fixes the instruction, or a sub-opcode of the family does, strictly (D21). -/
def decodeWord (w : Word) : Except Reject Instr :=
  match (fieldOp w).toNat with
  | 0x0 => decodeFamily0 w
  | 0x1 => .ok (.jp (fieldNNN w))
  | 0x2 => .ok (.call (fieldNNN w))
  | 0x3 => .ok (.seByte (fieldX w) (fieldKK w))
  | 0x4 => .ok (.sneByte (fieldX w) (fieldKK w))
  | 0x5 => if fieldN w = 0#4 then .ok (.seReg (fieldX w) (fieldY w)) else .error (.unsupported w)
  | 0x6 => .ok (.ldByte (fieldX w) (fieldKK w))
  | 0x7 => .ok (.addByte (fieldX w) (fieldKK w))
  | 0x8 => decodeFamily8 w
  | 0x9 => if fieldN w = 0#4 then .ok (.sneReg (fieldX w) (fieldY w)) else .error (.unsupported w)
  | 0xA => .ok (.ldI (fieldNNN w))
  | 0xB => .ok (.jpV0 (fieldNNN w))
  | 0xC => .ok (.rnd (fieldX w) (fieldKK w))
  | 0xD => .ok (.drw (fieldX w) (fieldY w) (fieldN w).toNat)
  | 0xE => decodeFamilyE w
  | _ => decodeFamilyF w

/-- The instruction word of two bytes, the first the more significant (20_memory.md R36). -/
def wordOfBytes (hi lo : Byte) : Word := hi ++ lo

/-- The decoder on bytes: the instruction and the bytes after it. -/
def decode : List Byte → Except Reject (Instr × List Byte)
  | hi :: lo :: rest =>
    match decodeWord (wordOfBytes hi lo) with
    | .ok i => .ok (i, rest)
    | .error r => .error r
  | [] => .error .truncated
  | [_] => .error .truncated

/-! ### The encoder (R56) -/

/-- The four bits that name a register. -/
def regBits (x : RegIdx) : Nibble := BitVec.ofFin x

/-- Format A: `op`, `nnn`. -/
def formatA (op : Nibble) (nnn : Addr12) : Word := op ++ nnn

/-- Format XK: `op`, `x`, `kk`; format X is the same with the sub-opcode byte for `kk`. -/
def formatXK (op : Nibble) (x : RegIdx) (kk : Byte) : Word := op ++ regBits x ++ kk

/-- Format XYN: `op`, `x`, `y`, `n`; format XY is the same with the sub-opcode for `n`. -/
def formatXYN (op : Nibble) (x y : RegIdx) (n : Nibble) : Word := op ++ regBits x ++ regBits y ++ n

/-- The word of an instruction, from the patterns of R58. -/
def encode : Instr → Word
  | .cls => 0x00E0
  | .ret => 0x00EE
  | .jp nnn => formatA 0x1 nnn
  | .call nnn => formatA 0x2 nnn
  | .seByte x kk => formatXK 0x3 x kk
  | .sneByte x kk => formatXK 0x4 x kk
  | .seReg x y => formatXYN 0x5 x y 0x0
  | .ldByte x kk => formatXK 0x6 x kk
  | .addByte x kk => formatXK 0x7 x kk
  | .ldReg x y => formatXYN 0x8 x y 0x0
  | .orReg x y => formatXYN 0x8 x y 0x1
  | .andReg x y => formatXYN 0x8 x y 0x2
  | .xorReg x y => formatXYN 0x8 x y 0x3
  | .addReg x y => formatXYN 0x8 x y 0x4
  | .subReg x y => formatXYN 0x8 x y 0x5
  | .shr x y => formatXYN 0x8 x y 0x6
  | .subnReg x y => formatXYN 0x8 x y 0x7
  | .shl x y => formatXYN 0x8 x y 0xE
  | .sneReg x y => formatXYN 0x9 x y 0x0
  | .ldI nnn => formatA 0xA nnn
  | .jpV0 nnn => formatA 0xB nnn
  | .rnd x kk => formatXK 0xC x kk
  | .drw x y n => formatXYN 0xD x y (BitVec.ofNat 4 n)
  | .skp x => formatXK 0xE x 0x9E
  | .sknp x => formatXK 0xE x 0xA1
  | .ldVxDt x => formatXK 0xF x 0x07
  | .ldVxK x => formatXK 0xF x 0x0A
  | .ldDtVx x => formatXK 0xF x 0x15
  | .ldStVx x => formatXK 0xF x 0x18
  | .addI x => formatXK 0xF x 0x1E
  | .ldF x => formatXK 0xF x 0x29
  | .ldB x => formatXK 0xF x 0x33
  | .stRegs x => formatXK 0xF x 0x55
  | .ldRegs x => formatXK 0xF x 0x65

/-- The first byte in memory of a word: bits 15:8 (R54). -/
def highByte (w : Word) : Byte := w.extractLsb' 8 8

/-- The second byte in memory of a word: bits 7:0. -/
def lowByte (w : Word) : Byte := w.extractLsb' 0 8

/-- The two bytes of an instruction as they lie in memory. -/
def encodeBytes (i : Instr) : List Byte := [highByte (encode i), lowByte (encode i)]

/-! ### The opcode map (R58) -/

/-- One row of R58: a word `w` is the row's instruction when `w AND mask = value`. -/
structure OpcodeRow where
  number : Nat
  mask : Word
  value : Word
  deriving DecidableEq, Repr

/-- The 34 rows of R58. -/
def opcodeMap : List OpcodeRow :=
  [⟨1, 0xFFFF, 0x00E0⟩, ⟨2, 0xFFFF, 0x00EE⟩, ⟨3, 0xF000, 0x1000⟩, ⟨4, 0xF000, 0x2000⟩, ⟨5, 0xF000, 0x3000⟩,
   ⟨6, 0xF000, 0x4000⟩, ⟨7, 0xF00F, 0x5000⟩, ⟨8, 0xF000, 0x6000⟩, ⟨9, 0xF000, 0x7000⟩] ++
  [⟨10, 0xF00F, 0x8000⟩, ⟨11, 0xF00F, 0x8001⟩, ⟨12, 0xF00F, 0x8002⟩, ⟨13, 0xF00F, 0x8003⟩, ⟨14, 0xF00F, 0x8004⟩,
   ⟨15, 0xF00F, 0x8005⟩, ⟨16, 0xF00F, 0x8006⟩, ⟨17, 0xF00F, 0x8007⟩, ⟨18, 0xF00F, 0x800E⟩] ++
  [⟨19, 0xF00F, 0x9000⟩, ⟨20, 0xF000, 0xA000⟩, ⟨21, 0xF000, 0xB000⟩, ⟨22, 0xF000, 0xC000⟩, ⟨23, 0xF000, 0xD000⟩,
   ⟨24, 0xF0FF, 0xE09E⟩, ⟨25, 0xF0FF, 0xE0A1⟩] ++
  [⟨26, 0xF0FF, 0xF007⟩, ⟨27, 0xF0FF, 0xF00A⟩, ⟨28, 0xF0FF, 0xF015⟩, ⟨29, 0xF0FF, 0xF018⟩, ⟨30, 0xF0FF, 0xF01E⟩,
   ⟨31, 0xF0FF, 0xF029⟩, ⟨32, 0xF0FF, 0xF033⟩, ⟨33, 0xF0FF, 0xF055⟩, ⟨34, 0xF0FF, 0xF065⟩]

/-- The number of an instruction's row in R58. -/
def Instr.rowNumber : Instr → Nat
  | .cls => 1
  | .ret => 2
  | .jp _ => 3
  | .call _ => 4
  | .seByte _ _ => 5
  | .sneByte _ _ => 6
  | .seReg _ _ => 7
  | .ldByte _ _ => 8
  | .addByte _ _ => 9
  | .ldReg _ _ => 10
  | .orReg _ _ => 11
  | .andReg _ _ => 12
  | .xorReg _ _ => 13
  | .addReg _ _ => 14
  | .subReg _ _ => 15
  | .shr _ _ => 16
  | .subnReg _ _ => 17
  | .shl _ _ => 18
  | .sneReg _ _ => 19
  | .ldI _ => 20
  | .jpV0 _ => 21
  | .rnd _ _ => 22
  | .drw _ _ _ => 23
  | .skp _ => 24
  | .sknp _ => 25
  | .ldVxDt _ => 26
  | .ldVxK _ => 27
  | .ldDtVx _ => 28
  | .ldStVx _ => 29
  | .addI _ => 30
  | .ldF _ => 31
  | .ldB _ => 32
  | .stRegs _ => 33
  | .ldRegs _ => 34

/-! ### The opcode table's numbering of bits -/

/-- The word whose low `nbits` bits are those of `w`, the rest zero. -/
def tableWord (nbits w : Nat) : Word := BitVec.ofNat 16 (w % 2 ^ min nbits 16)

/-- The instruction the decoder reads from the word `w` of the opcode table, laid out as in memory. -/
def decodeTableWord (nbits w : Nat) : Option Instr :=
  match decode [highByte (tableWord nbits w), lowByte (tableWord nbits w)] with
  | .ok (i, _) => some i
  | .error _ => none

end Sys2Proof
end

