-- ==== Sys2Proof/Config.lean ====
section
/-! DEFINITION. What the spec leaves to an implementation: the parameters `ENTRY` and `FONT`
(00_scope.md R7; 10_state.md R33) with their defaults, and the random byte of Cxkk, which nothing constrains. -/

namespace Sys2Proof.Config

/-- `ENTRY`, the reset value of `PC`: the spec's default.
DESIGN CHOICE (log 1): R7 leaves the parameter open, "0x200 by default". -/
def entry : Word := 0x200

/-- `FONT[0..79]`: the spec's default table, glyph `d` at `5 * d` (10_state.md R33).
PRESUMED (log 2): R33 gives it from general knowledge, the source document gives no glyph byte. -/
def font : List Byte :=
  [0xF0, 0x90, 0x90, 0x90, 0xF0] ++ [0x20, 0x60, 0x20, 0x20, 0x70] ++
  [0xF0, 0x10, 0xF0, 0x80, 0xF0] ++ [0xF0, 0x10, 0xF0, 0x10, 0xF0] ++
  [0x90, 0x90, 0xF0, 0x10, 0x10] ++ [0xF0, 0x80, 0xF0, 0x10, 0xF0] ++
  [0xF0, 0x80, 0xF0, 0x90, 0xF0] ++ [0xF0, 0x10, 0x20, 0x40, 0x40] ++
  [0xF0, 0x90, 0xF0, 0x90, 0xF0] ++ [0xF0, 0x90, 0xF0, 0x10, 0xF0] ++
  [0xF0, 0x90, 0xF0, 0x90, 0x90] ++ [0xE0, 0x90, 0xE0, 0x90, 0xE0] ++
  [0xF0, 0x80, 0x80, 0x80, 0xF0] ++ [0xE0, 0x90, 0x90, 0x90, 0xE0] ++
  [0xF0, 0x80, 0xF0, 0x80, 0xF0] ++ [0xF0, 0x80, 0xF0, 0x80, 0x80]

/-- The configuration of one instance, fixed at construction (10_state.md R31): it is no part of the state. -/
structure Params where
  /-- `ENTRY` -/
  entry : Word
  /-- `FONT` -/
  font : Vector Byte 80
  deriving DecidableEq, Repr

/-- The constraint of R7 on `ENTRY`: `0x200 <= ENTRY <= 0xFFE`. -/
abbrev Params.valid (c : Params) : Prop := 0x200 ≤ c.entry.toNat ∧ c.entry.toNat ≤ 0xFFE

/-- The instance with both parameters at their defaults. -/
def Params.default : Params := { entry := Config.entry, font := ⟨Config.font.toArray, rfl⟩ }

/-- The random byte of the `k`-th execution of Cxkk: a FREE VALUE (43_alu.md R101; 48_host_interface.md R140; U4).
The constant has no body, so a claim proved about it holds for every sequence of drawn bytes (log 4). -/
opaque randomByte : Nat → Byte

end Sys2Proof.Config
end

