-- ==== Sys2Proof/Machine/State.lean ====
section
/-! DEFINITION. The machine's state as 10_state.md R13 lists it, its value after reset (R32), the statuses of a
cycle (60_exceptions.md R149) and the reasons a cycle stops. -/

namespace Sys2Proof.Machine

/-- The seven statuses of a cycle (R149; D14: the union of the document's two lists). -/
inductive Status where
  | ok
  | waitingForInput
  | decodeError
  | unsupportedInstruction
  | stackOverflow
  | stackUnderflow
  | outOfBounds
  deriving DecidableEq, Repr

/-- The causes of `OutOfBounds` (R154). The status returned is the same for all (R156 lets a model tell them apart). -/
inductive BoundsCause where
  /-- fetch with `PC >= 0x1000` -/
  | fetch
  /-- sprite read beyond memory: Dxyn -/
  | spriteRead
  /-- load beyond memory: Fx65 -/
  | load
  /-- store beyond memory: Fx33, Fx55 -/
  | store
  /-- store into 0x000..0x1FF: Fx33, Fx55 -/
  | reservedStore
  /-- key id above 0xF: Ex9E, ExA1 -/
  | keyId
  /-- glyph digit above 0xF: Fx29 -/
  | glyphDigit
  deriving DecidableEq, Repr

/-- The error statuses: the cycle changes nothing (00_scope.md R11) and the status goes to the caller (R159). -/
inductive Fault where
  /-- Raised by the fetch at `PC = 0xFFF` (R150). Safe: the machine reports this status and stays where it is. -/
  | decodeError
  /-- Raised by the decode of a word that matches no row (R151). Safe, for the same reason. -/
  | unsupportedInstruction (w : Word)
  /-- Raised by 2nnn with `SP = 16` (R152). Safe, for the same reason. -/
  | stackOverflow
  /-- Raised by 00EE with `SP = 0` (R153). Safe, for the same reason. -/
  | stackUnderflow
  /-- Raised by the fetch, Dxyn, Fx33, Fx55, Fx65, Ex9E, ExA1 and Fx29, each for its cause (R154).
  Safe: where the document is silent the spec errs toward faulting (D11, D15, D16, D17, D27, D28). -/
  | outOfBounds (cause : BoundsCause)
  deriving DecidableEq, Repr

/-- The reasons the model itself gives no meaning. -/
inductive Refusal where
  /-- Raised by an arm of `exec` whose instruction has no meaning yet: no arm is left so. Safe. -/
  | notModelled (mnemonic : String)
  deriving DecidableEq, Repr

/-- `MEM`, as the list of the cells that differ from their reset contents (log 7): addresses rise strictly
(`Memory.wf` in Machine/Memory.lean). -/
abbrev Memory := List Host.Cell

/-- `DISP`: 32 rows of 64 pixels, row-major (R24). -/
abbrev Display := Vector (Vector Bool 64) 32

/-- The architectural state (R13), and one field of the model's own. -/
structure State where
  /-- `MEM[0..4095]` (R28) -/
  mem : Memory
  /-- `V[0..15]`; `V[15]` is `VF` (R14, R16) -/
  v : Vector Byte 16
  /-- `I`: 16 bits, never masked to 12 (R18) -/
  i : Word
  /-- `PC` (R19) -/
  pc : Word
  /-- `STACK[0..15]` (R22) -/
  stack : Vector Word 16
  /-- `SP`: 0 to 16 (R23) -/
  sp : Fin 17
  /-- `DISP[0..31][0..63]` (R24) -/
  disp : Display
  /-- `DT` (R25) -/
  dt : Byte
  /-- `ST` (R26) -/
  st : Byte
  /-- `KEY[0..15]` (R27) -/
  keys : Vector Bool 16
  /-- THE MODEL'S OWN, not the spec's: how many random bytes have been drawn (log 4). No instruction and no
  transaction can observe it but through the bodiless `Config.randomByte`. -/
  draws : Nat
  deriving DecidableEq, Repr

/-- The machine after construction and after `RESET`, with the parameters at their defaults (R32, R169). -/
def State.reset : State where
  mem := []
  v := Vector.replicate 16 0
  i := 0
  pc := Config.entry
  stack := Vector.replicate 16 0
  sp := 0
  disp := Vector.replicate 32 (Vector.replicate 64 false)
  dt := 0
  st := 0
  keys := Vector.replicate 16 false
  draws := 0

end Sys2Proof.Machine
end

