-- ==== Sys2Proof/Machine/Memory.lean ====
section
/-! DEFINITION. The memory primitives (00_scope.md R10) on the canonical list of listed cells. -/

namespace Sys2Proof.Machine

/-- What an unlisted address reads as: the reset contents (10_state.md R32), the font and then zeros. -/
def Memory.background (a : Nat) : Byte := Config.font.getD a 0

/-- `MemRead(a, 1)`. -/
def Memory.read : Memory → Nat → Byte
  | [], a => Memory.background a
  | c :: m, a => if a = c.1 then c.2 else Memory.read m a

/-- Puts a cell before the first cell of a higher address. -/
def Memory.insertCell (a : Nat) (b : Byte) : Memory → Memory
  | [] => [(a, b)]
  | c :: m => if a < c.1 then (a, b) :: c :: m else c :: Memory.insertCell a b m

/-- The memory with no cell listed at an address. -/
def Memory.dropCell (m : Memory) (a : Nat) : Memory := m.filter fun c => c.1 != a

/-- `MemWrite(a, 1, b)`: a cell is listed only where it differs from the reset contents. -/
def Memory.write (m : Memory) (a : Nat) (b : Byte) : Memory :=
  if b = Memory.background a then m.dropCell a else Memory.insertCell a b (m.dropCell a)

/-- Bytes written at rising addresses. -/
def Memory.writeBytes (m : Memory) (a : Nat) : List Byte → Memory
  | [] => m
  | b :: bs => Memory.writeBytes (m.write a b) (a + 1) bs

/-- `n` bytes read at rising addresses. -/
def Memory.readBytes (m : Memory) (a : Nat) : Nat → List Byte
  | 0 => []
  | n + 1 => m.read a :: Memory.readBytes m (a + 1) n

/-- The canonical form: addresses strictly rise, lie in memory, and no listed byte equals the reset contents. -/
abbrev Memory.wf (m : Memory) : Prop :=
  m.Pairwise (fun c d => c.1 < d.1) ∧ ∀ c ∈ m, c.1 < 0x1000 ∧ c.2 ≠ Memory.background c.1

/-- An access sequence of `len` bytes from `base` is in bounds (20_memory.md R40): addresses never wrap. -/
abbrev inBounds (base len : Nat) : Prop := len = 0 ∨ base + len - 1 ≤ 0xFFF

/-- An address the reserved range holds: no instruction writes it (20_memory.md R44). -/
abbrev reserved (a : Nat) : Prop := a < 0x200

end Sys2Proof.Machine
end

