-- ==== Sys2Proof/Machine/Ops.lean ====
section
/-! DEFINITION. The named operations every meaning is built from: updates of one state element, registers, pixels,
the fetch (40_step_cycle.md R68), raising a status (00_scope.md R11) and the commit with its `PC` stepper (R71). -/

namespace Sys2Proof.Machine

/-- What a meaning answers. -/
abbrev Result := Host.Outcome State Fault Refusal

/-! ### Updates of one state element -/

/-- `MEM` replaced. -/
def State.setMem (s : State) (m : Memory) : State := { s with mem := m }
/-- All general registers replaced. -/
def State.setVs (s : State) (v : Vector Byte 16) : State := { s with v := v }
/-- `I` replaced. -/
def State.setI (s : State) (w : Word) : State := { s with i := w }
/-- `PC` replaced. -/
def State.setPc (s : State) (w : Word) : State := { s with pc := w }
/-- `STACK` replaced. -/
def State.setStack (s : State) (k : Vector Word 16) : State := { s with stack := k }
/-- `SP` replaced. -/
def State.setSp (s : State) (p : Fin 17) : State := { s with sp := p }
/-- `DISP` replaced. -/
def State.setDisp (s : State) (d : Display) : State := { s with disp := d }
/-- `DT` replaced. -/
def State.setDt (s : State) (b : Byte) : State := { s with dt := b }
/-- `ST` replaced. -/
def State.setSt (s : State) (b : Byte) : State := { s with st := b }
/-- `KEY` replaced. -/
def State.setKeys (s : State) (k : Vector Bool 16) : State := { s with keys := k }
/-- The count of drawn bytes replaced. -/
def State.setDraws (s : State) (n : Nat) : State := { s with draws := n }

/-! ### General registers (10_state.md R14) -/

/-- `V[x]`. -/
def State.readV (s : State) (x : RegIdx) : Byte := s.v[x]

/-- `V[x] <- b`. -/
def State.writeV (s : State) (x : RegIdx) (b : Byte) : State := s.setVs (s.v.set x b)

/-! ### Pixels (10_state.md R24) -/

/-- `DISP[r][c]`. -/
def Display.pixel (d : Display) (r : Fin 32) (c : Fin 64) : Bool := d[r][c]

/-- `DISP[r][c] <- b`. -/
def Display.setPixel (d : Display) (r : Fin 32) (c : Fin 64) (b : Bool) : Display := d.set r (d[r].set c b)

/-- The grid with every pixel 0. -/
def Display.blank : Display := Vector.replicate 32 (Vector.replicate 64 false)

/-! ### Raising a status (00_scope.md R11; 60_exceptions.md R159) -/

/-- Taking an exception: nothing is saved, nothing is written and control goes nowhere (R159), so the reason is
the whole of it; the state stays that before the cycle. There is no return from it (R161). -/
def raise (f : Fault) : Result := .fault f

/-! ### The commit (40_step_cycle.md R70, R71) -/

/-- The four kinds of next `PC`. -/
inductive NextPc where
  | next
  | skip
  | goto (t : Word)
  | hold
  deriving DecidableEq, Repr

/-- The `PC` stepper: the new `PC` from the old. -/
def NextPc.apply (k : NextPc) (pc : Word) : Word :=
  match k with
  | .next => pc + 2
  | .skip => pc + 4
  | .goto t => t
  | .hold => pc

/-- The end of a cycle that raises nothing: the writes are in `s`, and `PC` is written once. -/
def commit (k : NextPc) (s : State) : Result := .next (s.setPc (k.apply s.pc))

/-! ### Fetch (40_step_cycle.md R68) -/

/-- `MemRead(a, 2)`: the byte at the lower address is the more significant (R10). -/
def Memory.readWord (m : Memory) (a : Nat) : Word := wordOfBytes (m.read a) (m.read (a + 1))

/-- The instruction word at `PC`, or the status the fetch raises (C2, D12). -/
def fetchWord (s : State) : Except Fault Word :=
  if 0x1000 ≤ s.pc.toNat then .error (.outOfBounds .fetch)
  else if s.pc.toNat = 0xFFF then .error .decodeError
  else .ok (s.mem.readWord s.pc.toNat)

end Sys2Proof.Machine
end

