-- ==== Sys2Proof/Machine/Operands.lean ====
section
/-! DEFINITION. Operand forms: how an operand of the word, a register or `I` becomes a value, an index or bytes. -/

namespace Sys2Proof.Machine

/-- `zext_16(nnn)`: an absolute address (30_encoding.md R57). -/
def zextAddr (nnn : Addr12) : Word := nnn.setWidth 16

/-- `zext_16(b)`. -/
def zextByte (b : Byte) : Word := b.setWidth 16

/-- A register's value as an index of sixteen: a key id (46_keys_timers.md R126) or a digit (44_address_reg.md R108). -/
def sixteenIndex (b : Byte) : Option (Fin 16) := if h : b.toNat < 16 then some ⟨b.toNat, h⟩ else none

/-- The address of glyph `d`: `FONT_BASE + GLYPH_BYTES * d` (44_address_reg.md R108). -/
def glyphAddr (d : Fin 16) : Word := BitVec.ofNat 16 (5 * d.val)

/-- Starting column of a sprite: `V[x] mod 64` (45_display.md R112). -/
def spriteCol (b : Byte) : Nat := b.toNat % 64

/-- Starting row of a sprite: `V[y] mod 32`. -/
def spriteRow (b : Byte) : Nat := b.toNat % 32

/-- Column `c` of a sprite row, bit `7 - c` of its byte (45_display.md R113). -/
def spriteBit (b : Byte) (c : Nat) : Bool := b.getLsbD (7 - c)

/-- Hundreds, tens and units (47_memory_ops.md R128). -/
def decimalDigits (b : Byte) : List Byte :=
  [BitVec.ofNat 8 (b.toNat / 100), BitVec.ofNat 8 (b.toNat / 10 % 10), BitVec.ofNat 8 (b.toNat % 10)]

/-- The bytes of `V[0]` to `V[x]`, in that order (47_memory_ops.md R129, D36). -/
def regBytes (s : State) (x : RegIdx) : List Byte := s.v.toList.take (x.val + 1)

/-- The registers with `V[0]` to `V[x]` loaded from `base` on (47_memory_ops.md R130). -/
def loadedRegs (s : State) (base : Nat) (x : RegIdx) : Vector Byte 16 :=
  Vector.ofFn fun j => if j ≤ x then s.mem.read (base + j.val) else s.v[j]

/-- The smallest pressed key (46_keys_timers.md R122, D18). -/
def lowestKey (keys : Vector Bool 16) : Option (Fin 16) := (List.finRange 16).find? fun k => keys[k]

end Sys2Proof.Machine
end

