-- ==== Sys2Proof/Machine/AddressReg.lean ====
section
/-! DEFINITION. Address-register instructions (44_address_reg.md): Annn, Fx1E, Fx29. No value of `I` is tested
here (R105). -/

namespace Sys2Proof.Machine

/-- Annn, R106. -/
def execLdI (nnn : Addr12) (s : State) : Result := commit .next (s.setI (zextAddr nnn))

/-- Fx1E, R107: modulo 65536, no flag (D3, D31). -/
def execAddI (x : RegIdx) (s : State) : Result := commit .next (s.setI (s.i + zextByte (s.readV x)))

/-- Fx29, R108: a value above 0xF is no digit (D17; log 14). -/
def execLdF (x : RegIdx) (s : State) : Result :=
  match sixteenIndex (s.readV x) with
  | none => raise (.outOfBounds .glyphDigit)
  | some d => commit .next (s.setI (glyphAddr d))

end Sys2Proof.Machine
end

