-- ==== Sys2Proof/Machine/Flags.lean ====
section
/-! DEFINITION. The flag computations of 10_state.md R16 and the order in which flag and result are written (R17). -/

namespace Sys2Proof.Machine

/-- A flag result as it is stored: all eight bits replaced by 0x00 or 0x01 (R16). -/
def flagByte (c : Bool) : Byte := if c then 1 else 0

/-- 8xy4: the true sum exceeds 255. -/
def carry (a b : Byte) : Byte := flagByte (decide (255 < a.toNat + b.toNat))

/-- 8xy5 and 8xy7: the minuend is at least the subtrahend. -/
def notBorrow (minuend subtrahend : Byte) : Byte := flagByte (decide (subtrahend.toNat ≤ minuend.toNat))

/-- 8xy6: bit 0 before the shift. -/
def outRight (a : Byte) : Byte := flagByte (a.getLsbD 0)

/-- 8xyE: bit 7 before the shift. -/
def outLeft (a : Byte) : Byte := flagByte (a.getLsbD 7)

/-- Index 0xF: the register that doubles as the flag. -/
def flagIdx : RegIdx := 15

/-- Phase 3 of R17: `V[15] <- flag`, then `V[x] <- result`, so with `x = 0xF` the result stays (C5, D37; log 12). -/
def State.writeFlagThenResult (s : State) (x : RegIdx) (flag result : Byte) : State :=
  (s.writeV flagIdx flag).writeV x result

end Sys2Proof.Machine
end

