-- ==== Sys2Proof/Machine/Alu.lean ====
section
/-! DEFINITION. Register load, arithmetic, logic, shift and random (43_alu.md). Every operand is read from the
state before the instruction (R88); sums and differences of bytes are modulo 256 (R89). -/

namespace Sys2Proof.Machine

/-- A result and no flag. -/
def writeResult (x : RegIdx) (result : Byte) (s : State) : Result := commit .next (s.writeV x result)

/-- A flag and a result, in the order of R17. -/
def writeFlagged (x : RegIdx) (flag result : Byte) (s : State) : Result :=
  commit .next (s.writeFlagThenResult x flag result)

/-- 6xkk, R90. -/
def execLdByte (x : RegIdx) (kk : Byte) (s : State) : Result := writeResult x kk s

/-- 7xkk, R91: no flag, also when the sum exceeds 255. -/
def execAddByte (x : RegIdx) (kk : Byte) (s : State) : Result := writeResult x (s.readV x + kk) s

/-- 8xy0, R92. -/
def execLdReg (x y : RegIdx) (s : State) : Result := writeResult x (s.readV y) s

/-- 8xy1, R93: `VF` is left alone (D31). -/
def execOrReg (x y : RegIdx) (s : State) : Result := writeResult x (s.readV x ||| s.readV y) s

/-- 8xy2, R94: `VF` is left alone (D31). -/
def execAndReg (x y : RegIdx) (s : State) : Result := writeResult x (s.readV x &&& s.readV y) s

/-- 8xy3, R95: `VF` is left alone (D31). -/
def execXorReg (x y : RegIdx) (s : State) : Result := writeResult x (s.readV x ^^^ s.readV y) s

/-- 8xy4, R96. -/
def execAddReg (x y : RegIdx) (s : State) : Result :=
  writeFlagged x (carry (s.readV x) (s.readV y)) (s.readV x + s.readV y) s

/-- 8xy5, R97. -/
def execSubReg (x y : RegIdx) (s : State) : Result :=
  writeFlagged x (notBorrow (s.readV x) (s.readV y)) (s.readV x - s.readV y) s

/-- 8xy6, R98: `V[x]` is shifted, whatever `y` is (R60). -/
def execShr (x _y : RegIdx) (s : State) : Result := writeFlagged x (outRight (s.readV x)) (s.readV x >>> 1) s

/-- 8xy7, R99. -/
def execSubnReg (x y : RegIdx) (s : State) : Result :=
  writeFlagged x (notBorrow (s.readV y) (s.readV x)) (s.readV y - s.readV x) s

/-- 8xyE, R100: `V[x]` is shifted, whatever `y` is (R60). -/
def execShl (x _y : RegIdx) (s : State) : Result := writeFlagged x (outLeft (s.readV x)) (s.readV x <<< 1) s

/-- Cxkk, R101: the byte drawn for this cycle is a free value, and the draw is counted (log 4). -/
def execRnd (x : RegIdx) (kk : Byte) (s : State) : Result :=
  writeResult x (Config.randomByte s.draws &&& kk) (s.setDraws (s.draws + 1))

end Sys2Proof.Machine
end

