-- ==== Sys2Proof/Machine/Flow.lean ====
section
/-! DEFINITION. Control transfer (41_flow.md): 00EE, 1nnn, 2nnn, Bnnn. Targets are not tested here (R78). -/

namespace Sys2Proof.Machine

/-- 00EE, R79. -/
def execRet (s : State) : Result :=
  if h : s.sp.val = 0 then raise .stackUnderflow
  else
    let top : Fin 16 := ⟨s.sp.val - 1, by omega⟩
    commit (.goto s.stack[top]) (s.setSp ⟨s.sp.val - 1, by omega⟩)

/-- 1nnn, R80. -/
def execJp (nnn : Addr12) (s : State) : Result := commit (.goto (zextAddr nnn)) s

/-- 2nnn, R81: the pushed value is the address of the following instruction. -/
def execCall (nnn : Addr12) (s : State) : Result :=
  if h : s.sp.val = 16 then raise .stackOverflow
  else
    let free : Fin 16 := ⟨s.sp.val, by omega⟩
    commit (.goto (zextAddr nnn)) ((s.setStack (s.stack.set free (s.pc + 2))).setSp ⟨s.sp.val + 1, by omega⟩)

/-- Bnnn, R82: always `V[0]`, and the sum is not reduced. -/
def execJpV0 (nnn : Addr12) (s : State) : Result := commit (.goto (zextAddr nnn + zextByte (s.readV 0))) s

end Sys2Proof.Machine
end

