-- ==== Sys2Proof/Machine/Skip.lean ====
section
/-! DEFINITION. Conditional skips on registers (42_skip.md): 3xkk, 4xkk, 5xy0, 9xy0. -/

namespace Sys2Proof.Machine

/-- The common part, R83: kind `skip` when the condition is true, `next` when it is false. -/
def skipWhen (cond : Bool) (s : State) : Result := commit (if cond then .skip else .next) s

/-- 3xkk, R84. -/
def execSeByte (x : RegIdx) (kk : Byte) (s : State) : Result := skipWhen (s.readV x == kk) s

/-- 4xkk, R85. -/
def execSneByte (x : RegIdx) (kk : Byte) (s : State) : Result := skipWhen (s.readV x != kk) s

/-- 5xy0, R86. -/
def execSeReg (x y : RegIdx) (s : State) : Result := skipWhen (s.readV x == s.readV y) s

/-- 9xy0, R87. -/
def execSneReg (x y : RegIdx) (s : State) : Result := skipWhen (s.readV x != s.readV y) s

end Sys2Proof.Machine
end

