-- ==== Sys2Proof/Machine/KeysTimers.lean ====
section
/-! DEFINITION. Key and timer instructions (46_keys_timers.md): Ex9E, ExA1, Fx0A, Fx07, Fx15, Fx18. -/

namespace Sys2Proof.Machine

/-- Ex9E, R120: a value above 0xF is no key id (R126, D16; log 14). -/
def execSkp (x : RegIdx) (s : State) : Result :=
  match sixteenIndex (s.readV x) with
  | none => raise (.outOfBounds .keyId)
  | some k => skipWhen s.keys[k] s

/-- ExA1, R121. -/
def execSknp (x : RegIdx) (s : State) : Result :=
  match sixteenIndex (s.readV x) with
  | none => raise (.outOfBounds .keyId)
  | some k => skipWhen (!s.keys[k]) s

/-- Fx07, R123. -/
def execLdVxDt (x : RegIdx) (s : State) : Result := commit .next (s.writeV x s.dt)

/-- Fx0A, R122: with no key pressed the cycle is a hold that changes nothing (status `WaitingForInput`, log 5);
else the smallest pressed id is stored (D18; log 13). -/
def execLdVxK (x : RegIdx) (s : State) : Result :=
  match lowestKey s.keys with
  | none => commit .hold s
  | some k => commit .next (s.writeV x (BitVec.ofNat 8 k.val))

/-- Fx15, R124. -/
def execLdDtVx (x : RegIdx) (s : State) : Result := commit .next (s.setDt (s.readV x))

/-- Fx18, R125. -/
def execLdStVx (x : RegIdx) (s : State) : Result := commit .next (s.setSt (s.readV x))

end Sys2Proof.Machine
end

