-- ==== Sys2Proof/Machine/MemoryOps.lean ====
section
/-! DEFINITION. Memory instructions (47_memory_ops.md): Fx33, Fx55, Fx65. The base is `I`, which they leave as it
is; each tests its whole range before it changes anything (R127). -/

namespace Sys2Proof.Machine

/-- Bytes stored from `I` on by an instruction: refused as a whole when the range meets 0x000..0x1FF (20_memory.md
R44, D15) or passes 0xFFF (R42, D10). -/
def storeAtI (bs : List Byte) (s : State) : Result :=
  if reserved s.i.toNat then raise (.outOfBounds .reservedStore)
  else if inBounds s.i.toNat bs.length then commit .next (s.setMem (s.mem.writeBytes s.i.toNat bs))
  else raise (.outOfBounds .store)

/-- Fx33, R128. -/
def execLdB (x : RegIdx) (s : State) : Result := storeAtI (decimalDigits (s.readV x)) s

/-- Fx55, R129. -/
def execStRegs (x : RegIdx) (s : State) : Result := storeAtI (regBytes s x) s

/-- Fx65, R130: the reserved range may be read. -/
def execLdRegs (x : RegIdx) (s : State) : Result :=
  if inBounds s.i.toNat (x.val + 1) then commit .next (s.setVs (loadedRegs s s.i.toNat x))
  else raise (.outOfBounds .load)

end Sys2Proof.Machine
end

