-- ==== Sys2Proof/Machine/Screen.lean ====
section
/-! DEFINITION. Display instructions (45_display.md): 00E0, Dxyn. The sprite loop is that of R111. -/

namespace Sys2Proof.Machine

/-- 00E0, R110. -/
def execCls (s : State) : Result := commit .next (s.setDisp Display.blank)

/-- The grid in the making and the collision value. -/
structure Canvas where
  disp : Display
  hit : Bool
  deriving DecidableEq, Repr

/-- One sprite pixel of value 1 at an absolute row and column: dropped outside the grid (R114), else XORed,
with a collision where the pixel was 1 (R115). -/
def plot (row col : Nat) (k : Canvas) : Canvas :=
  if h : row < 32 ∧ col < 64 then
    if Display.pixel k.disp ⟨row, h.1⟩ ⟨col, h.2⟩ then
      ⟨Display.setPixel k.disp ⟨row, h.1⟩ ⟨col, h.2⟩ false, true⟩
    else ⟨Display.setPixel k.disp ⟨row, h.1⟩ ⟨col, h.2⟩ true, k.hit⟩
  else k

/-- The columns `c, c + 1, .., c + len - 1` of one sprite row. -/
def plotRow (b : Byte) (row x0 c : Nat) : Nat → Canvas → Canvas
  | 0, k => k
  | len + 1, k => plotRow b row x0 (c + 1) len (if spriteBit b c then plot row (x0 + c) k else k)

/-- The sprite rows, from the absolute row `row` down. -/
def plotRows (x0 row : Nat) : List Byte → Canvas → Canvas
  | [], k => k
  | b :: bs, k => plotRows x0 (row + 1) bs (plotRow b row x0 0 8 k)

/-- Dxyn, R111: the operands are read before `VF` is written (R116), and all `n` bytes are tested (D28). -/
def execDrw (x y : RegIdx) (n : Nat) (s : State) : Result :=
  if inBounds s.i.toNat n then
    let k := plotRows (spriteCol (s.readV x)) (spriteRow (s.readV y)) (s.mem.readBytes s.i.toNat n) ⟨s.disp, false⟩
    commit .next ((s.writeV flagIdx (flagByte k.hit)).setDisp k.disp)
  else raise (.outOfBounds .spriteRead)

end Sys2Proof.Machine
end

