-- ==== Sys2Proof/Machine/Step.lean ====
section
/-! DEFINITION. One cycle (40_step_cycle.md R67): fetch, decode, execute, commit. -/

namespace Sys2Proof.Machine

/-- One STEP. The tests are made in the order of R73: the fetch's, the decoder's, the instruction's own. -/
def step (s : State) : Host.Outcome State Fault Refusal :=
  match fetchWord s with
  | .error f => raise f
  | .ok w =>
    match decodeWord w with
    | .error _ => raise (.unsupportedInstruction w)
    | .ok i => exec i s

/-- The state with the opcode table's word `w` stored where `step` fetches next. It stands for a LOAD at `PC`
(48_host_interface.md R135; log 11); a `PC` from which nothing can be fetched is moved to `ENTRY`. -/
def State.withFetchWord (s : State) (nbits w : Nat) : State :=
  let p : Word := if s.pc.toNat ≤ 0xFFE then s.pc else Config.entry
  { s with
    pc := p
    mem := s.mem.writeBytes p.toNat [highByte (tableWord nbits w), lowByte (tableWord nbits w)] }

end Sys2Proof.Machine
end

