-- ==== Sys2Proof/Machine/Transactions.lean ====
section
/-! DEFINITION. The block's external interface (48_host_interface.md): the status a cycle returns, and the ten
transactions of R132, each one atomic change of the state between cycles. -/

namespace Sys2Proof.Machine

/-! ### Statuses (60_exceptions.md R149) -/

/-- The 3-bit code of a status (D13); code 7 is never used. -/
def Status.code : Status → BitVec 3
  | .ok => 0
  | .waitingForInput => 1
  | .decodeError => 2
  | .unsupportedInstruction => 3
  | .stackOverflow => 4
  | .stackUnderflow => 5
  | .outOfBounds => 6

/-- The status a fault is returned as. -/
def Fault.status : Fault → Status
  | .decodeError => .decodeError
  | .unsupportedInstruction _ => .unsupportedInstruction
  | .stackOverflow => .stackOverflow
  | .stackUnderflow => .stackUnderflow
  | .outOfBounds _ => .outOfBounds

/-- The cycle ends in `hold` (40_step_cycle.md R71): the instruction at `PC` is Fx0A and no key is pressed. -/
def holds (s : State) : Bool :=
  match fetchWord s with
  | .error _ => false
  | .ok w =>
    match decodeWord w with
    | .ok (.ldVxK _) => (lowestKey s.keys).isNone
    | _ => false

/-- One cycle as R67 has it: the state after and the status. A cycle that raises leaves the state as it was
(00_scope.md R11). The last case never happens (`step` refuses nothing). -/
def cycle (s : State) : State × Status :=
  match step s with
  | .next t => (t, if holds s then .waitingForInput else .ok)
  | .fault f => (s, f.status)
  | .refused _ => (s, .unsupportedInstruction)

/-- `n` further cycles after one that returned `st`: the state after and the status of the last. -/
def cycles : Nat → State × Status → State × Status
  | 0, r => r
  | n + 1, r => cycles n (cycle r.1)

/-! ### Reset (70_reset_and_hazards.md R169) -/

/-- The state after construction with parameters `c`; `State.reset` is that of the default parameters. -/
def State.resetWith (c : Config.Params) : State :=
  { State.reset with pc := c.entry, mem := Memory.writeBytes [] 0 c.font.toList }

/-! ### Snapshots (R145, R146) -/

/-- What SNAPSHOT returns: every element but `KEY` (D26). `SP` is any 5-bit value here, so that a record built by
other means can break the invariant of R34 and be refused. -/
structure Snapshot where
  mem : Memory
  v : Vector Byte 16
  i : Word
  pc : Word
  stack : Vector Word 16
  sp : BitVec 5
  disp : Display
  dt : Byte
  st : Byte
  deriving DecidableEq, Repr

/-- SNAPSHOT, R145. -/
def snapshot (s : State) : Snapshot :=
  { mem := s.mem, v := s.v, i := s.i, pc := s.pc, stack := s.stack, sp := BitVec.ofNat 5 s.sp.val,
    disp := s.disp, dt := s.dt, st := s.st }

/-- RESTORE, R146: refused when `SP > 16`, or when the memory is no canonical list, which no SNAPSHOT of a
canonical state gives (log 16); `KEY` and the count of draws keep their values. -/
def restore (p : Snapshot) (s : State) : Option State :=
  if h : p.sp.toNat < 17 then
    if p.mem.wf then
      some { s with mem := p.mem, v := p.v, i := p.i, pc := p.pc, stack := p.stack, sp := ⟨p.sp.toNat, h⟩,
                    disp := p.disp, dt := p.dt, st := p.st }
    else none
  else none

/-! ### The transactions (R132) -/

/-- The two timers, as the accessors name them (R143). -/
inductive Timer where
  | delay
  | sound
  deriving DecidableEq, Repr

/-- The ten transactions of R132. -/
inductive Transaction where
  | reset
  | load (addr : Word) (bytes : List Byte)
  | step
  | stepN (n : Word)
  | displayRead
  | keyWrite (k : Fin 16) (b : Bool)
  | timerRead (t : Timer)
  | timerWrite (t : Timer) (b : Byte)
  | snapshot
  | restore (p : Snapshot)
  deriving DecidableEq, Repr

/-- What a transaction returns. -/
inductive Reply where
  | none
  | accepted
  | refused
  | status (st : Status)
  | pixels (out : List Bool)
  | value (b : Byte)
  | snap (p : Snapshot)
  deriving DecidableEq, Repr

/-- LOAD, R135 and R136: refused as a whole when it does not fit; not a runtime write, so it is not protected. -/
def load (addr : Word) (bytes : List Byte) (s : State) : State × Reply :=
  if addr.toNat + bytes.length > 0x1000 then (s, .refused)
  else (s.setMem (s.mem.writeBytes addr.toNat bytes), .accepted)

/-- STEPN, R138 and R139: exactly `n` cycles, whatever statuses they return; a count of 0 is refused. -/
def stepN (n : Word) (s : State) : State × Reply :=
  if n.toNat = 0 then (s, .refused)
  else
    let r := cycles n.toNat (s, .ok)
    (r.1, .status r.2)

/-- DISPLAY_READ, R141: row-major, row 0 first (D35). -/
def displayRead (s : State) : List Bool := s.disp.toList.flatMap fun row => row.toList

/-- KEY_WRITE, R142. -/
def keyWrite (k : Fin 16) (b : Bool) (s : State) : State := s.setKeys (s.keys.set k b)

/-- TIMER_READ, R143. -/
def timerRead (t : Timer) (s : State) : Byte :=
  match t with
  | .delay => s.dt
  | .sound => s.st

/-- TIMER_WRITE, R144. -/
def timerWrite (t : Timer) (b : Byte) (s : State) : State :=
  match t with
  | .delay => s.setDt b
  | .sound => s.setSt b

/-- One transaction of an instance with parameters `c`: the state after and the reply. RESET keeps the model's own
count of draws, so that it does not replay the random bytes (log 4). -/
def transact (c : Config.Params) (t : Transaction) (s : State) : State × Reply :=
  match t with
  | .reset => ((State.resetWith c).setDraws s.draws, .none)
  | .load addr bytes => load addr bytes s
  | .step => ((cycle s).1, .status (cycle s).2)
  | .stepN n => stepN n s
  | .displayRead => (s, .pixels (displayRead s))
  | .keyWrite k b => (keyWrite k b s, .none)
  | .timerRead t => (s, .value (timerRead t s))
  | .timerWrite t b => (timerWrite t b s, .none)
  | .snapshot => (s, .snap (snapshot s))
  | .restore p =>
    match restore p s with
    | some s' => (s', .accepted)
    | none => (s, .refused)

/-- A run: transactions of any agents, in the one order in which they happen (R132). -/
def run (c : Config.Params) : List Transaction → State → State
  | [], s => s
  | t :: ts, s => run c ts (transact c t s).1

/-- One counter in a tick: decremented when non-zero, left at zero otherwise. -/
def tickByte (b : Byte) : Byte := if b = 0 then 0 else b - 1

/-- One tick of the ASSUMED clock collaborator (60_exceptions.md R163): the values it writes with TIMER_WRITE.
PRESUMED (log 10): the spec gives the tick from general knowledge; the block itself never ticks. -/
def tick (s : State) : List Transaction :=
  [.timerWrite .delay (tickByte (timerRead .delay s)), .timerWrite .sound (tickByte (timerRead .sound s))]

end Sys2Proof.Machine
end

