-- ==== Sys2Proof/Safety.lean ====
section
/-! DEFINITION. The terms claims use: which parts of the state two states share, which registers an instruction
may write, the invariant of 10_state.md R34 and R35, and what a run without an error is. -/

namespace Sys2Proof.Machine

/-- Every byte of memory reads the same. -/
def sameMem (s t : State) : Prop := ∀ a, t.mem.read a = s.mem.read a

/-- Every general register reads the same. -/
def sameRegs (s t : State) : Prop := ∀ r, t.readV r = s.readV r

/-- The call stack and its pointer are the same. -/
def sameStack (s t : State) : Prop := t.stack = s.stack ∧ t.sp = s.sp

/-- The display, the timers and the keys are the same. -/
def sameDevices (s t : State) : Prop := t.disp = s.disp ∧ t.dt = s.dt ∧ t.st = s.st ∧ t.keys = s.keys

/-- Nothing but general registers and `PC` may differ. -/
def sameButRegs (s t : State) : Prop :=
  sameMem s t ∧ t.i = s.i ∧ sameStack s t ∧ sameDevices s t ∧ t.draws = s.draws

/-- Nothing but `PC` may differ. -/
def sameButPc (s t : State) : Prop := sameRegs s t ∧ sameButRegs s t

/-- Nothing but memory and `PC` may differ. -/
def sameButMem (s t : State) : Prop :=
  sameRegs s t ∧ t.i = s.i ∧ sameStack s t ∧ sameDevices s t ∧ t.draws = s.draws

/-- The addresses `base, .., base + len - 1`. -/
def inRange (base len a : Nat) : Prop := base ≤ a ∧ a < base + len

/-- The invariant of R34 and R35 that the types do not carry already: memory is in its canonical form, `PC` is at
most 0x10FE and no stack entry is above 0x1000. -/
def StateInv (s : State) : Prop :=
  s.mem.wf ∧ s.pc.toNat ≤ 0x10FE ∧ ∀ j : Fin 16, s.stack[j].toNat ≤ 0x1000

/-- The sprite bit that lands on a grid cell, or 0 where none does: the `s(row, col)` of 45_display.md R115. The
sprite row `row - y0` is the byte at `I + (row - y0)`, its column `col - x0` is bit `7 - (col - x0)` (R113), and
`x0`, `y0` are reduced once (R112). -/
def spriteOn (s : State) (x y : RegIdx) (n : Nat) (row : Fin 32) (col : Fin 64) : Bool :=
  let x0 := (s.readV x).toNat % 64
  let y0 := (s.readV y).toNat % 32
  decide (y0 ≤ row.val ∧ row.val < y0 + n ∧ x0 ≤ col.val ∧ col.val < x0 + 8) &&
    (s.mem.read (s.i.toNat + (row.val - y0))).getLsbD (7 - (col.val - x0))

/-- The write rows of 10_state.md R15: the registers an instruction may write. -/
def mayWriteReg (i : Instr) (r : RegIdx) : Prop :=
  match i with
  | .ldByte x _ | .addByte x _ | .ldReg x _ | .orReg x _ | .andReg x _ | .xorReg x _ | .rnd x _ | .ldVxDt x
  | .ldVxK x => r = x
  | .addReg x _ | .subReg x _ | .shr x _ | .subnReg x _ | .shl x _ => r = x ∨ r = 15
  | .drw _ _ _ => r = 15
  | .ldRegs x => r ≤ x
  | .cls | .ret | .jp _ | .call _ | .seByte _ _ | .sneByte _ _ | .seReg _ _ | .sneReg _ _ | .ldI _ | .jpV0 _
  | .skp _ | .sknp _ | .ldDtVx _ | .ldStVx _ | .addI _ | .ldF _ | .ldB _ | .stRegs _ => False

/-- `k` cycles in a row, with no other transaction between them, of which none raises an error (R168). -/
def runsClean : Nat → State → Prop
  | 0, _ => True
  | k + 1, s => ∃ t, step s = .next t ∧ runsClean k t

end Sys2Proof.Machine
end

