-- ==== Sys2Proof/Certificates/Slice0/Obligations.lean ====
section
/-! DEFINITION. The statements for the provers. Each docstring names the rules of spec/ the statement rests on;
where a clause rests on a decision of the spec or on a choice of the model, it names the decision or the log entry. -/

open Sys2Proof Sys2Proof.Machine

/-! ### Encoding -/

/-- R54 to R60: no bit of an encoding is dropped, on words and on bytes in memory order. -/
def Obligations.DecodeOfEncodeIsTheInstruction : Prop :=
  ∀ i : Instr, i.wellFormed = true →
    decodeWord (encode i) = .ok i ∧ ∀ rest, decode (encodeBytes i ++ rest) = .ok (i, rest)

/-- R58, R59: a word that decodes is the word of the instruction it decodes to, which is well formed. -/
def Obligations.EncodeOfDecodeIsTheWord : Prop :=
  ∀ (w : Word) (i : Instr), decodeWord w = .ok i → encode i = w ∧ i.wellFormed = true

/-- R61: the words that no row matches, family by family (strict decoding: D21). -/
def Obligations.UnsupportedWordsAreThoseListed : Prop :=
  ∀ w : Word, decodeWord w = .error (.unsupported w) ↔
    (fieldOp w = 0x0 ∧ w ≠ 0x00E0 ∧ w ≠ 0x00EE) ∨
    (fieldOp w = 0x5 ∧ fieldN w ≠ 0) ∨
    (fieldOp w = 0x8 ∧ fieldN w ∈ ([0x8, 0x9, 0xA, 0xB, 0xC, 0xD, 0xF] : List Nibble)) ∨
    (fieldOp w = 0x9 ∧ fieldN w ≠ 0) ∨
    (fieldOp w = 0xE ∧ fieldKK w ∉ ([0x9E, 0xA1] : List Byte)) ∨
    (fieldOp w = 0xF ∧ fieldKK w ∉ ([0x07, 0x0A, 0x15, 0x18, 0x1E, 0x29, 0x33, 0x55, 0x65] : List Byte))

/-- R58: a word is the instruction of a row exactly when `w AND mask = match`, for each of the 34 rows. -/
def Obligations.OpcodeMapRowSelectsTheInstruction : Prop :=
  ∀ (w : Word), ∀ r ∈ opcodeMap, w &&& r.mask = r.value ↔ ∃ i, decodeWord w = .ok i ∧ i.rowNumber = r.number

/-- Words written out from R56 and R58, two of them the document's own scenarios S1 and S2. -/
def Obligations.WrittenOutWordsDecode : Prop :=
  decode [0x61, 0x0A] = .ok (.ldByte 1 0x0A, []) ∧ decode [0xA1, 0x43] = .ok (.ldI 0x143, []) ∧
  decodeWord 0xD124 = .ok (.drw 1 2 4) ∧ decodeWord 0x00EE = .ok .ret ∧ decodeWord 0x8AB7 = .ok (.subnReg 10 11) ∧
  decodeWord 0x4311 = .ok (.sneByte 3 0x11) ∧ decodeWord 0xE5A1 = .ok (.sknp 5) ∧ decodeWord 0xF265 = .ok (.ldRegs 2)

/-! ### Fetch, step, statuses -/

/-- R41, R68: where the fetch succeeds and what it reads, the byte at `PC` more significant (R36); `PC >= 0x1000`
takes precedence by the spec's decision D12. -/
def Obligations.FetchBoundsAndByteOrder : Prop :=
  ∀ s : State,
    (0x1000 ≤ s.pc.toNat → step s = .fault (.outOfBounds .fetch)) ∧
    (s.pc.toNat = 0xFFF → step s = .fault .decodeError) ∧
    (s.pc.toNat ≤ 0xFFE → ∃ w : Word, fetchWord s = .ok w ∧
      w.toNat = 256 * (s.mem.read s.pc.toNat).toNat + (s.mem.read (s.pc.toNat + 1)).toNat)

/-- R67, R69, R70: a step is the execution of the instruction decoded at `PC`; a word of no row is unsupported. -/
def Obligations.StepRunsTheDecodedInstruction : Prop :=
  ∀ (s : State) (w : Word), s.pc.toNat ≤ 0xFFE →
    w = wordOfBytes (s.mem.read s.pc.toNat) (s.mem.read (s.pc.toNat + 1)) →
    (∀ i, decodeWord w = .ok i → step s = exec i s) ∧
    ((∀ i, decodeWord w ≠ .ok i) → step s = .fault (.unsupportedInstruction w))

/-- R36, R172: after LOAD of an instruction's bytes at `PC`, the next step runs that instruction. -/
def Obligations.LoadedInstructionRunsNext : Prop :=
  ∀ (c : Config.Params) (s t : State) (i : Instr), i.wellFormed = true → s.pc.toNat ≤ 0xFFE →
    transact c (.load s.pc (encodeBytes i)) s = (t, .accepted) → t.pc = s.pc ∧ step t = exec i t

/-- R150 to R153: the cause of each of these four statuses, and no other. That `PC = 0xFFF` alone is a
`DecodeError`, `PC >= 0x1000` being `OutOfBounds`, is the spec's decision D12. -/
def Obligations.FaultsHaveTheirCauses : Prop :=
  ∀ s : State,
    (step s = .fault .decodeError ↔ s.pc.toNat = 0xFFF) ∧
    ((∃ w, step s = .fault (.unsupportedInstruction w)) ↔
      s.pc.toNat ≤ 0xFFE ∧ ∀ i, decodeWord (s.mem.readWord s.pc.toNat) ≠ .ok i) ∧
    (step s = .fault .stackOverflow ↔
      s.pc.toNat ≤ 0xFFE ∧ s.sp.val = 16 ∧ ∃ nnn, decodeWord (s.mem.readWord s.pc.toNat) = .ok (.call nnn)) ∧
    (step s = .fault .stackUnderflow ↔
      s.pc.toNat ≤ 0xFFE ∧ s.sp.val = 0 ∧ decodeWord (s.mem.readWord s.pc.toNat) = .ok .ret)

/-- R154: when an instruction raises `OutOfBounds`, cause by cause (the reserved range by D15, the key id by D16,
the glyph digit by D17, the whole sprite range by D28). -/
def Obligations.OutOfBoundsHasItsCauses : Prop :=
  ∀ (i : Instr) (s : State) (b : BoundsCause), exec i s = .fault (.outOfBounds b) ↔
    (b = .spriteRead ∧ ∃ x y n, i = .drw x y n ∧ 1 ≤ n ∧ 0xFFF < s.i.toNat + n - 1) ∨
    (b = .load ∧ ∃ x, i = .ldRegs x ∧ 0xFFF < s.i.toNat + x.val) ∨
    (b = .store ∧ ((∃ x, i = .stRegs x ∧ 0xFFF < s.i.toNat + x.val) ∨ (∃ x, i = .ldB x ∧ 0xFFF < s.i.toNat + 2))) ∨
    (b = .reservedStore ∧ s.i.toNat < 0x200 ∧ ((∃ x, i = .stRegs x) ∨ (∃ x, i = .ldB x))) ∨
    (b = .keyId ∧ ∃ x, (i = .skp x ∨ i = .sknp x) ∧ 0x0F < (s.readV x).toNat) ∨
    (b = .glyphDigit ∧ ∃ x, i = .ldF x ∧ 0x0F < (s.readV x).toNat)

/-- R158: the one error status each instruction can raise of its own; the others always answer a next state, and
nothing is refused. R158 gives Fx0A the status `WaitingForInput`, which is no error: that its wait is a next state
is the model's choice (log entry 5), and its status is that of `CycleThatIsNotOkChangesNothing`. -/
def Obligations.EachInstructionRaisesOnlyItsOwnStatus : Prop :=
  ∀ (i : Instr) (s : State),
    (∃ t, exec i s = .next t) ∨
    ∃ f, exec i s = .fault f ∧ match i with
      | .call _ => f.status = .stackOverflow
      | .ret => f.status = .stackUnderflow
      | .drw _ _ _ | .ldB _ | .stRegs _ | .ldRegs _ | .skp _ | .sknp _ | .ldF _ => f.status = .outOfBounds
      | _ => False

/-- R137, R149 to R155, R159, R76: the status of each cycle, which the STEP transaction replies; a cycle whose
status is not `Ok` changes nothing, so the same cycle gives the same status again. That no part of an error's effect
stays is the spec's decision D10, that `PC >= 0x1000` is `OutOfBounds` its decision D12; that a wait is a `next` of
the model is log entry 5. -/
def Obligations.CycleThatIsNotOkChangesNothing : Prop :=
  ∀ s : State,
    ((cycle s).2 ≠ .ok → (cycle s).1 = s ∧ cycle (cycle s).1 = cycle s) ∧
    ((cycle s).2 = .waitingForInput ↔ s.pc.toNat ≤ 0xFFE ∧ (∀ k : Fin 16, s.keys[k] = false) ∧
      ∃ x, decodeWord (s.mem.readWord s.pc.toNat) = .ok (.ldVxK x)) ∧
    (0x1000 ≤ s.pc.toNat → cycle s = (s, .outOfBounds)) ∧
    (s.pc.toNat = 0xFFF → cycle s = (s, .decodeError)) ∧
    (s.pc.toNat ≤ 0xFFE → (∀ i, decodeWord (s.mem.readWord s.pc.toNat) ≠ .ok i) →
      cycle s = (s, .unsupportedInstruction)) ∧
    (∀ f, step s = .fault f → cycle s = (s, match f with
      | .decodeError => .decodeError
      | .unsupportedInstruction _ => .unsupportedInstruction
      | .stackOverflow => .stackOverflow
      | .stackUnderflow => .stackUnderflow
      | .outOfBounds _ => .outOfBounds)) ∧
    (∀ t, step s = .next t → (cycle s).1 = t ∧ ((cycle s).2 = .ok ∨ (cycle s).2 = .waitingForInput)) ∧
    ∀ c, transact c .step s = ((cycle s).1, .status (cycle s).2)

/-! ### Control flow -/

/-- R80, whole: 1nnn. -/
def Obligations.JumpSetsPc : Prop :=
  ∀ (nnn : Addr12) (s : State), decodeWord (formatA 0x1 nnn) = .ok (.jp nnn) ∧
    ∃ t, exec (.jp nnn) s = .next t ∧ t.pc.toNat = nnn.toNat ∧ sameButPc s t ∧
      (nnn.toNat = s.pc.toNat → t = s)

/-- R82: Bnnn; the sum is not reduced (D11). -/
def Obligations.IndexedJumpAddsV0 : Prop :=
  ∀ (nnn : Addr12) (s : State),
    ∃ t, exec (.jpV0 nnn) s = .next t ∧ t.pc.toNat = nnn.toNat + (s.readV 0).toNat ∧ sameButPc s t

/-- R81, whole: 2nnn; a return executed in the state after comes back to the following instruction. -/
def Obligations.CallPushesTheReturnAddress : Prop :=
  ∀ (nnn : Addr12) (s : State), decodeWord (formatA 0x2 nnn) = .ok (.call nnn) ∧
    (s.sp.val = 16 → exec (.call nnn) s = .fault .stackOverflow) ∧
    (s.sp.val < 16 → ∃ t, exec (.call nnn) s = .next t ∧ t.pc.toNat = nnn.toNat ∧ t.sp.val = s.sp.val + 1 ∧
      (∀ j : Fin 16, t.stack[j] = if j.val = s.sp.val then s.pc + 2 else s.stack[j]) ∧
      sameRegs s t ∧ sameMem s t ∧ t.i = s.i ∧ sameDevices s t ∧ t.draws = s.draws ∧
      ∃ u, exec .ret t = .next u ∧ u.pc = s.pc + 2 ∧ u.sp = s.sp)

/-- R79, whole: 00EE; `j` is the index `SP - 1`. -/
def Obligations.ReturnPopsIntoPc : Prop :=
  decodeWord 0x00EE = .ok .ret ∧
  ∀ s : State,
    (s.sp.val = 0 → exec .ret s = .fault .stackUnderflow) ∧
    (∀ j : Fin 16, s.sp.val = j.val + 1 → ∃ t, exec .ret s = .next t ∧ t.pc = s.stack[j] ∧ t.sp.val = j.val ∧
      t.stack = s.stack ∧ sameRegs s t ∧ sameMem s t ∧ t.i = s.i ∧ sameDevices s t ∧ t.draws = s.draws)

/-- The document's property S10 (quoted in R81): a call and the return at its target. -/
def Obligations.CallThenReturnComesBack : Prop :=
  ∀ (s : State) (nnn : Addr12), s.pc.toNat ≤ 0xFFE → s.sp.val < 16 →
    decodeWord (s.mem.readWord s.pc.toNat) = .ok (.call nnn) →
    nnn.toNat ≤ 0xFFE → s.mem.readWord nnn.toNat = 0x00EE →
    ∃ t u, step s = .next t ∧ step t = .next u ∧ u.pc.toNat = s.pc.toNat + 2 ∧ u.sp = s.sp ∧
      sameRegs s u ∧ sameMem s u ∧ u.i = s.i ∧ sameDevices s u

/-! ### Skips -/

/-- R84, R85, whole: 3xkk and 4xkk. -/
def Obligations.ByteSkips : Prop :=
  ∀ (x : RegIdx) (kk : Byte) (s : State),
    (decodeWord (formatXK 0x3 x kk) = .ok (.seByte x kk) ∧ decodeWord (formatXK 0x4 x kk) = .ok (.sneByte x kk)) ∧
    (∃ t, exec (.seByte x kk) s = .next t ∧ sameButPc s t ∧
      t.pc = if (s.readV x).toNat = kk.toNat then s.pc + 4 else s.pc + 2) ∧
    (∃ t, exec (.sneByte x kk) s = .next t ∧ sameButPc s t ∧
      t.pc = if (s.readV x).toNat = kk.toNat then s.pc + 2 else s.pc + 4)

/-- R86, R87, whole: 5xy0 and 9xy0; another low nibble is unsupported. -/
def Obligations.RegisterSkips : Prop :=
  ∀ (x y : RegIdx) (s : State),
    (decodeWord (formatXYN 0x5 x y 0) = .ok (.seReg x y) ∧ decodeWord (formatXYN 0x9 x y 0) = .ok (.sneReg x y)) ∧
    (∀ n : Nibble, n ≠ 0 →
      decodeWord (formatXYN 0x5 x y n) = .error (.unsupported (formatXYN 0x5 x y n)) ∧
      decodeWord (formatXYN 0x9 x y n) = .error (.unsupported (formatXYN 0x9 x y n))) ∧
    (∃ t, exec (.seReg x y) s = .next t ∧ sameButPc s t ∧
      t.pc = if (s.readV x).toNat = (s.readV y).toNat then s.pc + 4 else s.pc + 2) ∧
    (∃ t, exec (.sneReg x y) s = .next t ∧ sameButPc s t ∧
      t.pc = if (s.readV x).toNat = (s.readV y).toNat then s.pc + 2 else s.pc + 4)

/-- R120, R121, R126: Ex9E and ExA1; an id above 0xF raises `OutOfBounds` by the spec's decision D16. -/
def Obligations.KeySkips : Prop :=
  ∀ (x : RegIdx) (s : State),
    (∀ k : Fin 16, (s.readV x).toNat = k.val →
      (∃ t, exec (.skp x) s = .next t ∧ sameButPc s t ∧ t.pc = if s.keys[k] then s.pc + 4 else s.pc + 2) ∧
      (∃ t, exec (.sknp x) s = .next t ∧ sameButPc s t ∧ t.pc = if s.keys[k] then s.pc + 2 else s.pc + 4)) ∧
    (0x0F < (s.readV x).toNat →
      exec (.skp x) s = .fault (.outOfBounds .keyId) ∧ exec (.sknp x) s = .fault (.outOfBounds .keyId))

/-! ### Registers and arithmetic -/

/-- R90, R92, whole: 6xkk and 8xy0. -/
def Obligations.RegisterLoads : Prop :=
  ∀ (x y : RegIdx) (kk : Byte) (s : State),
    (decodeWord (formatXK 0x6 x kk) = .ok (.ldByte x kk) ∧ decodeWord (formatXYN 0x8 x y 0x0) = .ok (.ldReg x y)) ∧
    (∃ t, exec (.ldByte x kk) s = .next t ∧ t.pc = s.pc + 2 ∧ sameButRegs s t ∧
      ∀ r, t.readV r = if r = x then kk else s.readV r) ∧
    (∃ t, exec (.ldReg x y) s = .next t ∧ t.pc = s.pc + 2 ∧ sameButRegs s t ∧
      ∀ r, t.readV r = if r = x then s.readV y else s.readV r)

/-- R91, whole: 7xkk; `VF` is no exception to the frame. -/
def Obligations.AddByteWrapsWithoutFlag : Prop :=
  ∀ (x : RegIdx) (kk : Byte) (s : State), decodeWord (formatXK 0x7 x kk) = .ok (.addByte x kk) ∧
    ∃ t, exec (.addByte x kk) s = .next t ∧ t.pc = s.pc + 2 ∧ sameButRegs s t ∧
      (t.readV x).toNat = ((s.readV x).toNat + kk.toNat) % 256 ∧ ∀ r, r ≠ x → t.readV r = s.readV r

/-- R93 to R95: 8xy1, 8xy2, 8xy3, bit by bit; `VF` is no exception to the frame (D31). -/
def Obligations.LogicIsBitwiseWithoutFlag : Prop :=
  ∀ (x y : RegIdx) (s : State),
    (∃ t, exec (.orReg x y) s = .next t ∧ t.pc = s.pc + 2 ∧ sameButRegs s t ∧ (∀ r, r ≠ x → t.readV r = s.readV r) ∧
      ∀ k, (t.readV x).getLsbD k = ((s.readV x).getLsbD k || (s.readV y).getLsbD k)) ∧
    (∃ t, exec (.andReg x y) s = .next t ∧ t.pc = s.pc + 2 ∧ sameButRegs s t ∧ (∀ r, r ≠ x → t.readV r = s.readV r) ∧
      ∀ k, (t.readV x).getLsbD k = ((s.readV x).getLsbD k && (s.readV y).getLsbD k)) ∧
    (∃ t, exec (.xorReg x y) s = .next t ∧ t.pc = s.pc + 2 ∧ sameButRegs s t ∧ (∀ r, r ≠ x → t.readV r = s.readV r) ∧
      ∀ k, (t.readV x).getLsbD k = ((s.readV x).getLsbD k ^^ (s.readV y).getLsbD k))

/-- R96: 8xy4; that with `x = 0xF` the sum stays and the carry is lost is the spec's decision D37. -/
def Obligations.AddSetsCarry : Prop :=
  ∀ (x y : RegIdx) (s : State), decodeWord (formatXYN 0x8 x y 0x4) = .ok (.addReg x y) ∧
    ∃ t, exec (.addReg x y) s = .next t ∧ t.pc = s.pc + 2 ∧ sameButRegs s t ∧
      (t.readV x).toNat = ((s.readV x).toNat + (s.readV y).toNat) % 256 ∧
      (x ≠ 15 → (t.readV 15).toNat = if 255 < (s.readV x).toNat + (s.readV y).toNat then 1 else 0) ∧
      ∀ r, r ≠ x → r ≠ 15 → t.readV r = s.readV r

/-- R97, R99: 8xy5 and 8xy7, each difference taken in the integers and reduced; that it stays with `x = 0xF` is the
spec's decision D37. -/
def Obligations.SubtractionsSetNotBorrow : Prop :=
  ∀ (x y : RegIdx) (s : State),
    (decodeWord (formatXYN 0x8 x y 0x5) = .ok (.subReg x y) ∧ decodeWord (formatXYN 0x8 x y 0x7) = .ok (.subnReg x y)) ∧
    (∃ t, exec (.subReg x y) s = .next t ∧ t.pc = s.pc + 2 ∧ sameButRegs s t ∧
      ((t.readV x).toNat : Int) = (((s.readV x).toNat : Int) - ((s.readV y).toNat : Int)) % 256 ∧
      (x ≠ 15 → (t.readV 15).toNat = if (s.readV y).toNat ≤ (s.readV x).toNat then 1 else 0) ∧
      ∀ r, r ≠ x → r ≠ 15 → t.readV r = s.readV r) ∧
    (∃ t, exec (.subnReg x y) s = .next t ∧ t.pc = s.pc + 2 ∧ sameButRegs s t ∧
      ((t.readV x).toNat : Int) = (((s.readV y).toNat : Int) - ((s.readV x).toNat : Int)) % 256 ∧
      (x ≠ 15 → (t.readV 15).toNat = if (s.readV x).toNat ≤ (s.readV y).toNat then 1 else 0) ∧
      ∀ r, r ≠ x → r ≠ 15 → t.readV r = s.readV r)

/-- R98, R100: 8xy6 and 8xyE, for every `y`, which is ignored; that the result stays with `x = 0xF` is the spec's
decision D37. -/
def Obligations.ShiftsMoveOneBitIntoTheFlag : Prop :=
  ∀ (x y : RegIdx) (s : State),
    (decodeWord (formatXYN 0x8 x y 0x6) = .ok (.shr x y) ∧ decodeWord (formatXYN 0x8 x y 0xE) = .ok (.shl x y)) ∧
    (∃ t, exec (.shr x y) s = .next t ∧ t.pc = s.pc + 2 ∧ sameButRegs s t ∧
      (t.readV x).toNat = (s.readV x).toNat / 2 ∧
      (x ≠ 15 → (t.readV 15).toNat = (s.readV x).toNat % 2) ∧
      ∀ r, r ≠ x → r ≠ 15 → t.readV r = s.readV r) ∧
    (∃ t, exec (.shl x y) s = .next t ∧ t.pc = s.pc + 2 ∧ sameButRegs s t ∧
      (t.readV x).toNat = (s.readV x).toNat * 2 % 256 ∧
      (x ≠ 15 → (t.readV 15).toNat = (s.readV x).toNat / 128) ∧
      ∀ r, r ≠ x → r ≠ 15 → t.readV r = s.readV r)

/-- R101: Cxkk. The byte drawn is a free value (D19, log 4), the constant `Config.randomByte`; what holds of the
result holds for every draw. Each execution takes the next draw. -/
def Obligations.RandomByteIsMasked : Prop :=
  ∀ (x : RegIdx) (kk : Byte) (s : State),
    ∃ t, exec (.rnd x kk) s = .next t ∧ t.pc = s.pc + 2 ∧
      t.readV x = Config.randomByte s.draws &&& kk ∧ t.draws = s.draws + 1 ∧
      (∀ k, kk.getLsbD k = false → (t.readV x).getLsbD k = false) ∧ (t.readV x).toNat ≤ kk.toNat ∧
      (∀ r, r ≠ x → t.readV r = s.readV r) ∧ sameMem s t ∧ t.i = s.i ∧ sameStack s t ∧ sameDevices s t

/-! ### The address register -/

/-- R106, whole: Annn. -/
def Obligations.AddressRegisterLoads : Prop :=
  ∀ (nnn : Addr12) (s : State), decodeWord (formatA 0xA nnn) = .ok (.ldI nnn) ∧
    ∃ t, exec (.ldI nnn) s = .next t ∧ t.pc = s.pc + 2 ∧ t.i.toNat = nnn.toNat ∧
      sameRegs s t ∧ sameMem s t ∧ sameStack s t ∧ sameDevices s t ∧ t.draws = s.draws

/-- R107, R108: Fx1E, modulo 65536 and without a flag (D3, D31), and Fx29, which raises `OutOfBounds` for a value
that is no digit (D17). -/
def Obligations.AddressRegisterArithmetic : Prop :=
  ∀ (x : RegIdx) (s : State),
    (∃ t, exec (.addI x) s = .next t ∧ t.pc = s.pc + 2 ∧
      t.i.toNat = (s.i.toNat + (s.readV x).toNat) % 65536 ∧
      sameRegs s t ∧ sameMem s t ∧ sameStack s t ∧ sameDevices s t ∧ t.draws = s.draws) ∧
    ((s.readV x).toNat ≤ 0x0F → ∃ t, exec (.ldF x) s = .next t ∧ t.pc = s.pc + 2 ∧
      t.i.toNat = 5 * (s.readV x).toNat ∧
      sameRegs s t ∧ sameMem s t ∧ sameStack s t ∧ sameDevices s t ∧ t.draws = s.draws) ∧
    (0x0F < (s.readV x).toNat → exec (.ldF x) s = .fault (.outOfBounds .glyphDigit))

/-! ### The display -/

/-- R110: 00E0; `VF` is no exception to the frame (D31). -/
def Obligations.ClearBlanksTheDisplay : Prop :=
  ∀ s : State, ∃ t, exec .cls s = .next t ∧ t.pc = s.pc + 2 ∧
    (∀ (r : Fin 32) (c : Fin 64), Display.pixel t.disp r c = false) ∧
    sameRegs s t ∧ sameMem s t ∧ t.i = s.i ∧ sameStack s t ∧ t.dt = s.dt ∧ t.st = s.st ∧ t.keys = s.keys ∧
    t.draws = s.draws

/-- R111, R116, R117: when Dxyn completes, and its frame; with `n = 0` it touches no memory (D28). -/
def Obligations.DrawCompletesInBounds : Prop :=
  ∀ (x y : RegIdx) (n : Nat) (s : State),
    ((n = 0 ∨ s.i.toNat + n - 1 ≤ 0xFFF) → ∃ t, exec (.drw x y n) s = .next t ∧ t.pc = s.pc + 2 ∧
      (t.readV 15 = 0 ∨ t.readV 15 = 1) ∧ (∀ r, r ≠ 15 → t.readV r = s.readV r) ∧
      (n = 0 → t.disp = s.disp ∧ t.readV 15 = 0) ∧
      sameMem s t ∧ t.i = s.i ∧ sameStack s t ∧ t.dt = s.dt ∧ t.st = s.st ∧ t.keys = s.keys ∧ t.draws = s.draws) ∧
    (1 ≤ n → 0xFFF < s.i.toNat + n - 1 → exec (.drw x y n) s = .fault (.outOfBounds .spriteRead))

/-- R113 to R116: the loop of R111 is the loop-free draw of R115: every cell is XORed with the sprite bit that
lands on it, clipped bits land nowhere, and `VF` is 1 exactly when a pixel went from 1 to 0. The coordinates are
the registers' values before the draw, `VF` included; no other register is written. -/
def Obligations.DrawXorsTheClippedSprite : Prop :=
  ∀ (x y : RegIdx) (n : Nat) (s t : State), exec (.drw x y n) s = .next t →
    (∀ (row : Fin 32) (col : Fin 64),
      Display.pixel t.disp row col = (Display.pixel s.disp row col ^^ spriteOn s x y n row col)) ∧
    ((t.readV 15).toNat =
      if ∃ (row : Fin 32) (col : Fin 64), Display.pixel s.disp row col = true ∧ spriteOn s x y n row col = true
      then 1 else 0) ∧
    ∀ r, r ≠ 15 → t.readV r = s.readV r

/-- R117 (c), the document's property S8: two draws of one sprite restore the display. The second draw sets `VF`
exactly when some set bit of the sprite lands inside the grid on a pixel that was 0 before the first: S8 leaves
that condition out (log 21). -/
def Obligations.DrawTwiceRestoresTheDisplay : Prop :=
  ∀ (x y : RegIdx) (n : Nat) (s t u : State), x ≠ 15 → y ≠ 15 →
    exec (.drw x y n) s = .next t → exec (.drw x y n) t = .next u →
    u.disp = s.disp ∧
    (u.readV 15).toNat =
      if ∃ (row : Fin 32) (col : Fin 64), spriteOn s x y n row col = true ∧ Display.pixel s.disp row col = false
      then 1 else 0

/-! ### Keys and timers -/

/-- R122: Fx0A. With no key pressed nothing changes (a hold; log 5); else the smallest pressed id is stored in the
same cycle (the level and the smallest id are the spec's decision D18). -/
def Obligations.KeyWaitStoresTheSmallestKey : Prop :=
  ∀ (x : RegIdx) (s : State),
    ((∀ k : Fin 16, s.keys[k] = false) → exec (.ldVxK x) s = .next s) ∧
    (∀ k : Fin 16, s.keys[k] = true → (∀ j : Fin 16, j < k → s.keys[j] = false) →
      ∃ t, exec (.ldVxK x) s = .next t ∧ t.pc = s.pc + 2 ∧ (t.readV x).toNat = k.val ∧
        (∀ r, r ≠ x → t.readV r = s.readV r) ∧ sameButRegs s t)

/-- R76, R122, R142: cycles on a waiting Fx0A change nothing, however many; after a KEY_WRITE of a key the next
cycle completes it. That a pressed key ends the wait in the cycle that sees it, with `V[x]` and `PC` written at once,
is the spec's decision D18 (log entry 13); that STEPN goes on through `WaitingForInput` and replies the last status
is its decision D24 (log entry 22). -/
def Obligations.KeyWaitEndsAfterKeyWrite : Prop :=
  ∀ (c : Config.Params) (s : State) (x : RegIdx) (n : Word) (k : Fin 16), s.pc.toNat ≤ 0xFFE →
    decodeWord (s.mem.readWord s.pc.toNat) = .ok (.ldVxK x) → (∀ j : Fin 16, s.keys[j] = false) → n ≠ 0 →
    transact c (.stepN n) s = (s, .status .waitingForInput) ∧
    ∃ t, step (transact c (.keyWrite k true) s).1 = .next t ∧ (t.readV x).toNat = k.val ∧ t.pc = s.pc + 2

/-- R123, R124, R125, whole: Fx07, Fx15, Fx18. -/
def Obligations.TimerInstructionsCopyBytes : Prop :=
  ∀ (x : RegIdx) (s : State),
    (decodeWord (formatXK 0xF x 0x07) = .ok (.ldVxDt x) ∧ decodeWord (formatXK 0xF x 0x15) = .ok (.ldDtVx x) ∧
      decodeWord (formatXK 0xF x 0x18) = .ok (.ldStVx x)) ∧
    (∃ t, exec (.ldVxDt x) s = .next t ∧ t.pc = s.pc + 2 ∧ sameButRegs s t ∧
      ∀ r, t.readV r = if r = x then s.dt else s.readV r) ∧
    (∃ t, exec (.ldDtVx x) s = .next t ∧ t.pc = s.pc + 2 ∧ t.dt = s.readV x ∧ sameRegs s t ∧ sameMem s t ∧
      t.i = s.i ∧ sameStack s t ∧ t.disp = s.disp ∧ t.st = s.st ∧ t.keys = s.keys ∧ t.draws = s.draws) ∧
    (∃ t, exec (.ldStVx x) s = .next t ∧ t.pc = s.pc + 2 ∧ t.st = s.readV x ∧ sameRegs s t ∧ sameMem s t ∧
      t.i = s.i ∧ sameStack s t ∧ t.disp = s.disp ∧ t.dt = s.dt ∧ t.keys = s.keys ∧ t.draws = s.draws)

/-! ### Memory -/

/-- R128: Fx33; the refusal of the reserved range is the spec's decision D15. -/
def Obligations.DecimalDigitsAreStored : Prop :=
  ∀ (x : RegIdx) (s : State), decodeWord (formatXK 0xF x 0x33) = .ok (.ldB x) ∧
    (0x200 ≤ s.i.toNat → s.i.toNat ≤ 0xFFD → ∃ t, exec (.ldB x) s = .next t ∧ t.pc = s.pc + 2 ∧
      (t.mem.read s.i.toNat).toNat = (s.readV x).toNat / 100 ∧
      (t.mem.read (s.i.toNat + 1)).toNat = (s.readV x).toNat / 10 % 10 ∧
      (t.mem.read (s.i.toNat + 2)).toNat = (s.readV x).toNat % 10 ∧
      (∀ a, ¬ inRange s.i.toNat 3 a → t.mem.read a = s.mem.read a) ∧ sameButMem s t) ∧
    (s.i.toNat < 0x200 ∨ 0xFFD < s.i.toNat → ∃ b, exec (.ldB x) s = .fault (.outOfBounds b))

/-- R129: Fx55; that `V[x]` is stored too is the spec's decision D36, and the refusal of a range that meets
0x000..0x1FF its decision D15. -/
def Obligations.RegistersAreStored : Prop :=
  ∀ (x : RegIdx) (s : State),
    (0x200 ≤ s.i.toNat → s.i.toNat + x.val ≤ 0xFFF → ∃ t, exec (.stRegs x) s = .next t ∧ t.pc = s.pc + 2 ∧
      (∀ r : RegIdx, r ≤ x → t.mem.read (s.i.toNat + r.val) = s.readV r) ∧
      (∀ a, ¬ inRange s.i.toNat (x.val + 1) a → t.mem.read a = s.mem.read a) ∧ sameButMem s t) ∧
    (s.i.toNat < 0x200 ∨ 0xFFF < s.i.toNat + x.val → ∃ b, exec (.stRegs x) s = .fault (.outOfBounds b))

/-- R130: Fx65; that `V[x]` is loaded too is the spec's decision D36. -/
def Obligations.RegistersAreLoaded : Prop :=
  ∀ (x : RegIdx) (s : State), decodeWord (formatXK 0xF x 0x65) = .ok (.ldRegs x) ∧
    (s.i.toNat + x.val ≤ 0xFFF → ∃ t, exec (.ldRegs x) s = .next t ∧ t.pc = s.pc + 2 ∧ sameButRegs s t ∧
      ∀ r : RegIdx, t.readV r = if r ≤ x then s.mem.read (s.i.toNat + r.val) else s.readV r) ∧
    (0xFFF < s.i.toNat + x.val → exec (.ldRegs x) s = .fault (.outOfBounds .load))

/-- R129, R52, R36: a block store over the next instruction is what the next cycle fetches. That with `x = 1` the
byte of `V[1]` is stored at all is the spec's decision D36. -/
def Obligations.StoredBytesAreFetchedNext : Prop :=
  ∀ (x : RegIdx) (s t : State), 1 ≤ x.val → s.pc.toNat ≤ 0xFFC → s.i.toNat = s.pc.toNat + 2 →
    exec (.stRegs x) s = .next t → fetchWord t = .ok (wordOfBytes (s.readV 0) (s.readV 1))

/-- R44, R34: no cycle changes a byte of 0x000..0x1FF, nor does any transaction but LOAD, RESTORE and RESET (the
enforcement is the spec's decision D15; RESET is left out by log entry 20). -/
def Obligations.ReservedRangeIsNeverWritten : Prop :=
  ∀ (c : Config.Params) (tr : Transaction) (s : State),
    tr ≠ .reset → (∀ a bs, tr ≠ .load a bs) → (∀ p, tr ≠ .restore p) →
    ∀ a, a < 0x200 → (transact c tr s).1.mem.read a = s.mem.read a

/-! ### Whole-machine rules -/

/-- R20, whole: how each cycle changes `PC`; that Bnnn is not reduced is the spec's decision D11, that an error moves
nothing its decision D10. -/
def Obligations.PcAfterEachCycle : Prop :=
  ∀ s : State,
    (∀ f, step s = .fault f → (cycle s).1.pc = s.pc) ∧
    ∀ i t, s.pc.toNat ≤ 0xFFE → decodeWord (s.mem.readWord s.pc.toNat) = .ok i → step s = .next t →
      match i with
      | .jp nnn => t.pc.toNat = nnn.toNat
      | .call nnn => t.pc.toNat = nnn.toNat ∧ ∀ j : Fin 16, j.val = s.sp.val → t.stack[j] = s.pc + 2
      | .ret => ∀ j : Fin 16, s.sp.val = j.val + 1 → t.pc = s.stack[j]
      | .jpV0 nnn => t.pc.toNat = nnn.toNat + (s.readV 0).toNat
      | .seByte x kk => t.pc.toNat = if s.readV x = kk then s.pc.toNat + 4 else s.pc.toNat + 2
      | .sneByte x kk => t.pc.toNat = if s.readV x ≠ kk then s.pc.toNat + 4 else s.pc.toNat + 2
      | .seReg x y => t.pc.toNat = if s.readV x = s.readV y then s.pc.toNat + 4 else s.pc.toNat + 2
      | .sneReg x y => t.pc.toNat = if s.readV x ≠ s.readV y then s.pc.toNat + 4 else s.pc.toNat + 2
      | .skp x => ∀ k : Fin 16, (s.readV x).toNat = k.val →
          t.pc.toNat = if s.keys[k] = true then s.pc.toNat + 4 else s.pc.toNat + 2
      | .sknp x => ∀ k : Fin 16, (s.readV x).toNat = k.val →
          t.pc.toNat = if s.keys[k] = false then s.pc.toNat + 4 else s.pc.toNat + 2
      | .ldVxK _ => (t.pc.toNat = if ∀ k : Fin 16, s.keys[k] = false then s.pc.toNat else s.pc.toNat + 2) ∧
          ((∀ k : Fin 16, s.keys[k] = false) → (cycle s).2 = .waitingForInput)
      | _ => t.pc.toNat = s.pc.toNat + 2

/-- R15, R16: an instruction leaves every register alone but those the write rows of R15 give it; `VF` is written
as a flag by 8xy4 to 8xy7, 8xyE and Dxyn only (D31). -/
def Obligations.RegistersAreWrittenOnlyAsListed : Prop :=
  ∀ (i : Instr) (s t : State), exec i s = .next t → ∀ r, ¬ mayWriteReg i r → t.readV r = s.readV r

/-- R18, R22 to R27, R74: which instructions may change each other element: `I`, the stack, `SP` and by how much,
the display, the timers, memory; none changes a key. -/
def Obligations.OtherStateIsWrittenOnlyAsListed : Prop :=
  ∀ (i : Instr) (s t : State), exec i s = .next t →
    (t.i ≠ s.i → (∃ nnn, i = .ldI nnn) ∨ (∃ x, i = .addI x) ∨ ∃ x, i = .ldF x) ∧
    (t.stack ≠ s.stack → ∃ nnn, i = .call nnn) ∧
    (t.sp.val = s.sp.val ∨ (t.sp.val = s.sp.val + 1 ∧ ∃ nnn, i = .call nnn) ∨ (t.sp.val + 1 = s.sp.val ∧ i = .ret)) ∧
    (t.disp ≠ s.disp → i = .cls ∨ ∃ x y n, i = .drw x y n) ∧
    (t.dt ≠ s.dt → ∃ x, i = .ldDtVx x) ∧ (t.st ≠ s.st → ∃ x, i = .ldStVx x) ∧ t.keys = s.keys ∧
    (¬ sameMem s t → (∃ x, i = .ldB x) ∨ ∃ x, i = .stRegs x) ∧
    (t.draws ≠ s.draws → ∃ x kk, i = .rnd x kk)

/-- R77: a jump to its own address runs for ever without an error. -/
def Obligations.SelfJumpRunsForEver : Prop :=
  ∀ (s : State) (nnn : Addr12), s.pc.toNat ≤ 0xFFE → nnn.toNat = s.pc.toNat →
    decodeWord (s.mem.readWord s.pc.toNat) = .ok (.jp nnn) → ∀ k, runsClean k s

/-! ### The invariant -/

/-- The invariant of R34 and R35 holds at reset (the reset values are those of R32 and D6). -/
def Obligations.InvariantHoldsAtReset : Prop := StateInv State.reset

/-- R35, R34: a cycle keeps the invariant: canonical memory (log 7), `PC <= 0x10FE`, every stack entry at most
0x1000. -/
def Obligations.StepKeepsTheInvariant : Prop :=
  ∀ s t : State, StateInv s → step s = .next t → StateInv t

/-- R35, R34: every transaction but RESTORE keeps the invariant, for every instance with a valid `ENTRY`. -/
def Obligations.TransactionsKeepTheInvariant : Prop :=
  ∀ (c : Config.Params) (tr : Transaction) (s : State), c.valid → (∀ p, tr ≠ .restore p) → StateInv s →
    StateInv (transact c tr s).1

/-! ### Reset and the host's transactions -/

/-- R32, R33, R169, R171: the state after RESET for every choice of the parameters `ENTRY` and `FONT`, whatever the
state before. The zeros are the spec's decision D6; the count of draws is the model's own (log 4). -/
def Obligations.ResetSetsEveryElement : Prop :=
  ∀ (c : Config.Params) (s : State),
    let t := (transact c .reset s).1
    t.pc = c.entry ∧ (∀ a : Fin 80, t.mem.read a.val = c.font[a]) ∧ (∀ a, 80 ≤ a → t.mem.read a = 0) ∧ t.mem.wf ∧
    (∀ r, t.readV r = 0) ∧ t.i = 0 ∧ t.sp = 0 ∧ (∀ j : Fin 16, t.stack[j] = 0) ∧
    (∀ (r : Fin 32) (q : Fin 64), Display.pixel t.disp r q = false) ∧ t.dt = 0 ∧ t.st = 0 ∧
    (∀ k : Fin 16, t.keys[k] = false) ∧ t.draws = s.draws

/-- The reset state of the model is that of the default parameters (log 1, log 2), with memory listing nothing. -/
def Obligations.ResetIsTheDefaultInstance : Prop :=
  State.resetWith Config.Params.default = State.reset ∧ Config.Params.default.valid ∧
    State.reset.pc.toNat = 0x200 ∧ step State.reset = .fault (.unsupportedInstruction 0)

/-- R135, R136: LOAD; the refusal of what does not fit and the unprotected reserved range are decision D25. An empty
sequence at an address above 0x1000 is refused by R135's test read literally, although R135 also says that an empty
sequence is accepted: that is the model's choice (log entry 23, DEDUCED). -/
def Obligations.LoadCopiesOrRefuses : Prop :=
  ∀ (c : Config.Params) (addr : Word) (bytes : List Byte) (s : State),
    let r := transact c (.load addr bytes) s
    (0x1000 < addr.toNat + bytes.length → r = (s, .refused)) ∧
    (addr.toNat + bytes.length ≤ 0x1000 → r.2 = .accepted ∧
      (∀ j (h : j < bytes.length), r.1.mem.read (addr.toNat + j) = bytes[j]) ∧
      (∀ a, ¬ inRange addr.toNat bytes.length a → r.1.mem.read a = s.mem.read a) ∧
      r.1.pc = s.pc ∧ sameButMem s r.1)

/-- R138, R139: STEPN. The result is the status of the last cycle, which is `Ok` exactly when all `n` cycles returned
`Ok`; a count of 0 is refused (D24, log entry 22). -/
def Obligations.StepNRunsExactlyNCycles : Prop :=
  ∀ (c : Config.Params) (s : State),
    transact c (.stepN 0) s = (s, .refused) ∧
    ∀ n : Word, n ≠ 0 →
      transact c (.stepN n) s = ((cycles n.toNat (s, .ok)).1, .status (cycles n.toNat (s, .ok)).2) ∧
      (∀ k, cycles (k + 1) (s, .ok) = cycle (cycles k (s, .ok)).1) ∧
      ((transact c (.stepN n) s).2 = .status .ok ↔ ∀ k, k < n.toNat → (cycle (cycles k (s, .ok)).1).2 = .ok)

/-- R145, R146: SNAPSHOT changes nothing and returns a record; after any run, RESTORE of that record brings back
every element but `KEY` (D26; the count of draws is the model's own, log 16), and a record with `SP > 16` is
refused. -/
def Obligations.RestoreBringsTheSnapshotBack : Prop :=
  ∀ (c : Config.Params) (ts : List Transaction) (s : State),
    let u := run c ts s
    transact c .snapshot s = (s, .snap (snapshot s)) ∧
    (s.mem.wf → transact c (.restore (snapshot s)) u = ((s.setKeys u.keys).setDraws u.draws, .accepted)) ∧
    ∀ p : Snapshot, 16 < p.sp.toNat → transact c (.restore p) u = (u, .refused)

/-- R141: DISPLAY_READ gives 2048 pixels, `out[64*r + c] = DISP[r][c]` (D35), and changes nothing. -/
def Obligations.DisplayReadIsRowMajor : Prop :=
  ∀ (c : Config.Params) (s : State), ∃ out, transact c .displayRead s = (s, .pixels out) ∧ out.length = 2048 ∧
    ∀ (r : Fin 32) (q : Fin 64), out[64 * r.val + q.val]? = some (Display.pixel s.disp r q)

/-- R142, R143, R144: KEY_WRITE changes one key; the timer accessors read and write one timer. -/
def Obligations.KeyAndTimerAccessors : Prop :=
  ∀ (c : Config.Params) (s : State) (k : Fin 16) (b : Bool) (v : Byte),
    (∀ j : Fin 16, (transact c (.keyWrite k b) s).1.keys[j] = if j = k then b else s.keys[j]) ∧
    (transact c (.keyWrite k b) s).1.setKeys s.keys = s ∧
    transact c (.timerRead .delay) s = (s, .value s.dt) ∧ transact c (.timerRead .sound) s = (s, .value s.st) ∧
    transact c (.timerWrite .delay v) s = (s.setDt v, .none) ∧
    transact c (.timerWrite .sound v) s = (s.setSt v, .none)

/-- R163: one tick of the ASSUMED clock collaborator (D22; PRESUMED, log 10), as its transactions: each timer goes
down by one or stays at zero, and nothing else changes. -/
def Obligations.TickDecrementsNonZeroTimers : Prop :=
  ∀ (c : Config.Params) (s : State),
    (run c (tick s) s).dt.toNat = s.dt.toNat - 1 ∧ (run c (tick s) s).st.toNat = s.st.toNat - 1 ∧
    sameButRegs s ((run c (tick s) s).setDt s.dt |>.setSt s.st) ∧ sameRegs s (run c (tick s) s) ∧
    (run c (tick s) s).pc = s.pc
end

