-- ==== Sys2Proof/Laws/Decode.lean ====
section
/-! SUPPORT. The fields of a word built in one of the formats of 30_encoding.md R56, and the formats under the
masks of the opcode map (R58). -/

namespace Sys2Proof

@[simp] theorem regBits_toFin (x : RegIdx) : (regBits x).toFin = x := rfl

@[simp] theorem regBits_of_toFin (b : Nibble) : regBits b.toFin = b := rfl

theorem regBits_fieldX (w : Word) : regBits (fieldX w) = w.extractLsb' 8 4 := rfl

theorem regBits_fieldY (w : Word) : regBits (fieldY w) = w.extractLsb' 4 4 := rfl

/-! ### Bits of the formats -/

theorem formatA_bit (op : Nibble) (nnn : Addr12) (k : Nat) :
    (formatA op nnn).getLsbD k = if k < 12 then nnn.getLsbD k else op.getLsbD (k - 12) :=
  BitVec.getLsbD_append

theorem formatXK_bit (op : Nibble) (x : RegIdx) (kk : Byte) (k : Nat) :
    (formatXK op x kk).getLsbD k = if k < 8 then kk.getLsbD k else if k < 12 then (regBits x).getLsbD (k - 8)
      else op.getLsbD (k - 12) := by
  refine (BitVec.getLsbD_append (x := op ++ regBits x) (y := kk)).trans ?_
  rw [BitVec.getLsbD_append]
  by_cases h : k < 8
  · simp only [if_pos h]
  · have h1 : (k - 8 < 4) = (k < 12) := by simp only [eq_iff_iff]; omega
    have h2 : k - 8 - 4 = k - 12 := by omega
    simp only [if_neg h, h1, h2]

theorem formatXYN_bit (op : Nibble) (x y : RegIdx) (n : Nibble) (k : Nat) :
    (formatXYN op x y n).getLsbD k = if k < 4 then n.getLsbD k else if k < 8 then (regBits y).getLsbD (k - 4)
      else if k < 12 then (regBits x).getLsbD (k - 8) else op.getLsbD (k - 12) := by
  refine (BitVec.getLsbD_append (x := op ++ regBits x ++ regBits y) (y := n)).trans ?_
  by_cases h : k < 4
  · simp only [if_pos h]
  · rw [if_neg h, if_neg h, BitVec.getLsbD_append, BitVec.getLsbD_append]
    have h1 : (k - 4 < 4) = (k < 8) := by simp only [eq_iff_iff]; omega
    have h2 : (k - 4 - 4 < 4) = (k - 8 < 4) := by simp only [eq_iff_iff]; omega
    by_cases h8 : k < 8
    · simp only [h1, if_pos h8]
    · have h3 : (k - 8 < 4) = (k < 12) := by simp only [eq_iff_iff]; omega
      have h4 : k - 4 - 4 = k - 8 := by omega
      have h5 : k - 8 - 4 = k - 12 := by omega
      simp only [h1, if_neg h8, h4, h3, h5]

theorem wordOfBytes_bit (hi lo : Byte) (k : Nat) :
    (wordOfBytes hi lo).getLsbD k = if k < 8 then lo.getLsbD k else hi.getLsbD (k - 8) :=
  BitVec.getLsbD_append

/-! ### Format A -/

@[simp] theorem fieldOp_formatA (op : Nibble) (nnn : Addr12) : fieldOp (formatA op nnn) = op := by
  apply BitVec.eq_of_getLsbD_eq
  intro k hk
  interval_cases k <;> simp [-BitVec.getLsbD_eq_getElem, fieldOp, BitVec.getLsbD_extractLsb', formatA_bit]

@[simp] theorem fieldNNN_formatA (op : Nibble) (nnn : Addr12) : fieldNNN (formatA op nnn) = nnn := by
  apply BitVec.eq_of_getLsbD_eq
  intro k hk
  interval_cases k <;> simp [-BitVec.getLsbD_eq_getElem, fieldNNN, BitVec.getLsbD_extractLsb', formatA_bit]

/-! ### Format XK -/

@[simp] theorem fieldOp_formatXK (op : Nibble) (x : RegIdx) (kk : Byte) : fieldOp (formatXK op x kk) = op := by
  apply BitVec.eq_of_getLsbD_eq
  intro k hk
  interval_cases k <;> simp [-BitVec.getLsbD_eq_getElem, fieldOp, BitVec.getLsbD_extractLsb', formatXK_bit]

theorem extract_x_formatXK (op : Nibble) (x : RegIdx) (kk : Byte) :
    (formatXK op x kk).extractLsb' 8 4 = regBits x := by
  apply BitVec.eq_of_getLsbD_eq
  intro k hk
  interval_cases k <;> simp [-BitVec.getLsbD_eq_getElem, BitVec.getLsbD_extractLsb', formatXK_bit]

@[simp] theorem fieldX_formatXK (op : Nibble) (x : RegIdx) (kk : Byte) : fieldX (formatXK op x kk) = x := by
  rw [fieldX, extract_x_formatXK]
  rfl

@[simp] theorem fieldKK_formatXK (op : Nibble) (x : RegIdx) (kk : Byte) : fieldKK (formatXK op x kk) = kk := by
  apply BitVec.eq_of_getLsbD_eq
  intro k hk
  interval_cases k <;> simp [-BitVec.getLsbD_eq_getElem, fieldKK, BitVec.getLsbD_extractLsb', formatXK_bit]

/-! ### Format XYN -/

@[simp] theorem fieldOp_formatXYN (op : Nibble) (x y : RegIdx) (n : Nibble) :
    fieldOp (formatXYN op x y n) = op := by
  apply BitVec.eq_of_getLsbD_eq
  intro k hk
  interval_cases k <;> simp [-BitVec.getLsbD_eq_getElem, fieldOp, BitVec.getLsbD_extractLsb', formatXYN_bit]

theorem extract_x_formatXYN (op : Nibble) (x y : RegIdx) (n : Nibble) :
    (formatXYN op x y n).extractLsb' 8 4 = regBits x := by
  apply BitVec.eq_of_getLsbD_eq
  intro k hk
  interval_cases k <;> simp [-BitVec.getLsbD_eq_getElem, BitVec.getLsbD_extractLsb', formatXYN_bit]

theorem extract_y_formatXYN (op : Nibble) (x y : RegIdx) (n : Nibble) :
    (formatXYN op x y n).extractLsb' 4 4 = regBits y := by
  apply BitVec.eq_of_getLsbD_eq
  intro k hk
  interval_cases k <;> simp [-BitVec.getLsbD_eq_getElem, BitVec.getLsbD_extractLsb', formatXYN_bit]

@[simp] theorem fieldX_formatXYN (op : Nibble) (x y : RegIdx) (n : Nibble) : fieldX (formatXYN op x y n) = x := by
  rw [fieldX, extract_x_formatXYN]
  rfl

@[simp] theorem fieldY_formatXYN (op : Nibble) (x y : RegIdx) (n : Nibble) : fieldY (formatXYN op x y n) = y := by
  rw [fieldY, extract_y_formatXYN]
  rfl

@[simp] theorem fieldN_formatXYN (op : Nibble) (x y : RegIdx) (n : Nibble) : fieldN (formatXYN op x y n) = n := by
  apply BitVec.eq_of_getLsbD_eq
  intro k hk
  interval_cases k <;> simp [-BitVec.getLsbD_eq_getElem, fieldN, BitVec.getLsbD_extractLsb', formatXYN_bit]

/-! ### A word is its fields -/

/-- Every word is its family and its twelve address bits. -/
theorem formatA_fields (w : Word) : formatA (fieldOp w) (fieldNNN w) = w := by
  apply BitVec.eq_of_getLsbD_eq
  intro k hk
  interval_cases k <;> simp [-BitVec.getLsbD_eq_getElem, fieldOp, fieldNNN, BitVec.getLsbD_extractLsb', formatA_bit]

/-- Every word is its family, its `x` and its byte. -/
theorem formatXK_fields (w : Word) : formatXK (fieldOp w) (fieldX w) (fieldKK w) = w := by
  apply BitVec.eq_of_getLsbD_eq
  intro k hk
  interval_cases k <;> simp [-BitVec.getLsbD_eq_getElem, fieldOp, regBits_fieldX, fieldKK, BitVec.getLsbD_extractLsb', formatXK_bit]

/-- Every word is its four nibbles. -/
theorem formatXYN_fields (w : Word) : formatXYN (fieldOp w) (fieldX w) (fieldY w) (fieldN w) = w := by
  apply BitVec.eq_of_getLsbD_eq
  intro k hk
  interval_cases k <;> simp [-BitVec.getLsbD_eq_getElem, fieldOp, regBits_fieldX, regBits_fieldY, fieldN, BitVec.getLsbD_extractLsb', formatXYN_bit]

/-- The two bytes of a word make the word again. -/
@[simp] theorem wordOfBytes_highByte_lowByte (w : Word) : wordOfBytes (highByte w) (lowByte w) = w := by
  apply BitVec.eq_of_getLsbD_eq
  intro k hk
  interval_cases k <;> simp [-BitVec.getLsbD_eq_getElem, highByte, lowByte, wordOfBytes_bit]

/-- The value of two bytes read as a word, the first the more significant (R36). -/
theorem wordOfBytes_toNat (hi lo : Byte) : (wordOfBytes hi lo).toNat = 256 * hi.toNat + lo.toNat := by
  have h : (wordOfBytes hi lo).toNat = hi.toNat <<< 8 ||| lo.toNat := BitVec.toNat_append hi lo
  rw [h, ← Nat.shiftLeft_add_eq_or_of_lt lo.isLt, Nat.shiftLeft_eq]
  omega

/-! ### Under the masks -/

theorem formatA_mask (op : Nibble) (nnn : Addr12) : formatA op nnn &&& 0xF000 = formatA op 0 := by
  apply BitVec.eq_of_getLsbD_eq
  intro k hk
  interval_cases k <;> simp [-BitVec.getLsbD_eq_getElem, formatA_bit]

theorem formatXK_mask (op : Nibble) (x : RegIdx) (kk : Byte) : formatXK op x kk &&& 0xF000 = formatXK op 0 0 := by
  apply BitVec.eq_of_getLsbD_eq
  intro k hk
  interval_cases k <;> simp [-BitVec.getLsbD_eq_getElem, BitVec.getLsbD_and, formatXK_bit, regBits]

theorem formatX_mask (op : Nibble) (x : RegIdx) (kk : Byte) : formatXK op x kk &&& 0xF0FF = formatXK op 0 kk := by
  apply BitVec.eq_of_getLsbD_eq
  intro k hk
  interval_cases k <;> simp [-BitVec.getLsbD_eq_getElem, BitVec.getLsbD_and, formatXK_bit, regBits]

theorem formatXY_mask (op : Nibble) (x y : RegIdx) (n : Nibble) :
    formatXYN op x y n &&& 0xF00F = formatXYN op 0 0 n := by
  apply BitVec.eq_of_getLsbD_eq
  intro k hk
  interval_cases k <;> simp [-BitVec.getLsbD_eq_getElem, BitVec.getLsbD_and, formatXYN_bit, regBits]

theorem formatXYN_mask (op : Nibble) (x y : RegIdx) (n : Nibble) :
    formatXYN op x y n &&& 0xF000 = formatXYN op 0 0 0 := by
  apply BitVec.eq_of_getLsbD_eq
  intro k hk
  interval_cases k <;> simp [-BitVec.getLsbD_eq_getElem, BitVec.getLsbD_and, formatXYN_bit, regBits]

end Sys2Proof
end

