-- ==== Sys2Proof/Laws/State.lean ====
section
/-! SUPPORT. One lemma per field per update of `State`, and the register laws: later proofs never unfold a record
update. -/

namespace Sys2Proof.Machine

/-! ### `setMem` -/

@[simp] theorem State.setMem_mem (s : State) (a : Memory) : (s.setMem a).mem = a := rfl
@[simp] theorem State.setMem_v (s : State) (a : Memory) : (s.setMem a).v = s.v := rfl
@[simp] theorem State.setMem_i (s : State) (a : Memory) : (s.setMem a).i = s.i := rfl
@[simp] theorem State.setMem_pc (s : State) (a : Memory) : (s.setMem a).pc = s.pc := rfl
@[simp] theorem State.setMem_stack (s : State) (a : Memory) : (s.setMem a).stack = s.stack := rfl
@[simp] theorem State.setMem_sp (s : State) (a : Memory) : (s.setMem a).sp = s.sp := rfl
@[simp] theorem State.setMem_disp (s : State) (a : Memory) : (s.setMem a).disp = s.disp := rfl
@[simp] theorem State.setMem_dt (s : State) (a : Memory) : (s.setMem a).dt = s.dt := rfl
@[simp] theorem State.setMem_st (s : State) (a : Memory) : (s.setMem a).st = s.st := rfl
@[simp] theorem State.setMem_keys (s : State) (a : Memory) : (s.setMem a).keys = s.keys := rfl
@[simp] theorem State.setMem_draws (s : State) (a : Memory) : (s.setMem a).draws = s.draws := rfl
@[simp] theorem State.setMem_readV (s : State) (a : Memory) (r : RegIdx) : (s.setMem a).readV r = s.readV r := rfl

/-! ### `setVs` -/

@[simp] theorem State.setVs_mem (s : State) (a : Vector Byte 16) : (s.setVs a).mem = s.mem := rfl
@[simp] theorem State.setVs_v (s : State) (a : Vector Byte 16) : (s.setVs a).v = a := rfl
@[simp] theorem State.setVs_i (s : State) (a : Vector Byte 16) : (s.setVs a).i = s.i := rfl
@[simp] theorem State.setVs_pc (s : State) (a : Vector Byte 16) : (s.setVs a).pc = s.pc := rfl
@[simp] theorem State.setVs_stack (s : State) (a : Vector Byte 16) : (s.setVs a).stack = s.stack := rfl
@[simp] theorem State.setVs_sp (s : State) (a : Vector Byte 16) : (s.setVs a).sp = s.sp := rfl
@[simp] theorem State.setVs_disp (s : State) (a : Vector Byte 16) : (s.setVs a).disp = s.disp := rfl
@[simp] theorem State.setVs_dt (s : State) (a : Vector Byte 16) : (s.setVs a).dt = s.dt := rfl
@[simp] theorem State.setVs_st (s : State) (a : Vector Byte 16) : (s.setVs a).st = s.st := rfl
@[simp] theorem State.setVs_keys (s : State) (a : Vector Byte 16) : (s.setVs a).keys = s.keys := rfl
@[simp] theorem State.setVs_draws (s : State) (a : Vector Byte 16) : (s.setVs a).draws = s.draws := rfl
@[simp] theorem State.setVs_readV (s : State) (a : Vector Byte 16) (r : RegIdx) : (s.setVs a).readV r = a[r] := rfl

/-! ### `setI` -/

@[simp] theorem State.setI_mem (s : State) (a : Word) : (s.setI a).mem = s.mem := rfl
@[simp] theorem State.setI_v (s : State) (a : Word) : (s.setI a).v = s.v := rfl
@[simp] theorem State.setI_i (s : State) (a : Word) : (s.setI a).i = a := rfl
@[simp] theorem State.setI_pc (s : State) (a : Word) : (s.setI a).pc = s.pc := rfl
@[simp] theorem State.setI_stack (s : State) (a : Word) : (s.setI a).stack = s.stack := rfl
@[simp] theorem State.setI_sp (s : State) (a : Word) : (s.setI a).sp = s.sp := rfl
@[simp] theorem State.setI_disp (s : State) (a : Word) : (s.setI a).disp = s.disp := rfl
@[simp] theorem State.setI_dt (s : State) (a : Word) : (s.setI a).dt = s.dt := rfl
@[simp] theorem State.setI_st (s : State) (a : Word) : (s.setI a).st = s.st := rfl
@[simp] theorem State.setI_keys (s : State) (a : Word) : (s.setI a).keys = s.keys := rfl
@[simp] theorem State.setI_draws (s : State) (a : Word) : (s.setI a).draws = s.draws := rfl
@[simp] theorem State.setI_readV (s : State) (a : Word) (r : RegIdx) : (s.setI a).readV r = s.readV r := rfl

/-! ### `setPc` -/

@[simp] theorem State.setPc_mem (s : State) (a : Word) : (s.setPc a).mem = s.mem := rfl
@[simp] theorem State.setPc_v (s : State) (a : Word) : (s.setPc a).v = s.v := rfl
@[simp] theorem State.setPc_i (s : State) (a : Word) : (s.setPc a).i = s.i := rfl
@[simp] theorem State.setPc_pc (s : State) (a : Word) : (s.setPc a).pc = a := rfl
@[simp] theorem State.setPc_stack (s : State) (a : Word) : (s.setPc a).stack = s.stack := rfl
@[simp] theorem State.setPc_sp (s : State) (a : Word) : (s.setPc a).sp = s.sp := rfl
@[simp] theorem State.setPc_disp (s : State) (a : Word) : (s.setPc a).disp = s.disp := rfl
@[simp] theorem State.setPc_dt (s : State) (a : Word) : (s.setPc a).dt = s.dt := rfl
@[simp] theorem State.setPc_st (s : State) (a : Word) : (s.setPc a).st = s.st := rfl
@[simp] theorem State.setPc_keys (s : State) (a : Word) : (s.setPc a).keys = s.keys := rfl
@[simp] theorem State.setPc_draws (s : State) (a : Word) : (s.setPc a).draws = s.draws := rfl
@[simp] theorem State.setPc_readV (s : State) (a : Word) (r : RegIdx) : (s.setPc a).readV r = s.readV r := rfl

/-! ### `setStack` -/

@[simp] theorem State.setStack_mem (s : State) (a : Vector Word 16) : (s.setStack a).mem = s.mem := rfl
@[simp] theorem State.setStack_v (s : State) (a : Vector Word 16) : (s.setStack a).v = s.v := rfl
@[simp] theorem State.setStack_i (s : State) (a : Vector Word 16) : (s.setStack a).i = s.i := rfl
@[simp] theorem State.setStack_pc (s : State) (a : Vector Word 16) : (s.setStack a).pc = s.pc := rfl
@[simp] theorem State.setStack_stack (s : State) (a : Vector Word 16) : (s.setStack a).stack = a := rfl
@[simp] theorem State.setStack_sp (s : State) (a : Vector Word 16) : (s.setStack a).sp = s.sp := rfl
@[simp] theorem State.setStack_disp (s : State) (a : Vector Word 16) : (s.setStack a).disp = s.disp := rfl
@[simp] theorem State.setStack_dt (s : State) (a : Vector Word 16) : (s.setStack a).dt = s.dt := rfl
@[simp] theorem State.setStack_st (s : State) (a : Vector Word 16) : (s.setStack a).st = s.st := rfl
@[simp] theorem State.setStack_keys (s : State) (a : Vector Word 16) : (s.setStack a).keys = s.keys := rfl
@[simp] theorem State.setStack_draws (s : State) (a : Vector Word 16) : (s.setStack a).draws = s.draws := rfl
@[simp] theorem State.setStack_readV (s : State) (a : Vector Word 16) (r : RegIdx) : (s.setStack a).readV r = s.readV r := rfl

/-! ### `setSp` -/

@[simp] theorem State.setSp_mem (s : State) (a : Fin 17) : (s.setSp a).mem = s.mem := rfl
@[simp] theorem State.setSp_v (s : State) (a : Fin 17) : (s.setSp a).v = s.v := rfl
@[simp] theorem State.setSp_i (s : State) (a : Fin 17) : (s.setSp a).i = s.i := rfl
@[simp] theorem State.setSp_pc (s : State) (a : Fin 17) : (s.setSp a).pc = s.pc := rfl
@[simp] theorem State.setSp_stack (s : State) (a : Fin 17) : (s.setSp a).stack = s.stack := rfl
@[simp] theorem State.setSp_sp (s : State) (a : Fin 17) : (s.setSp a).sp = a := rfl
@[simp] theorem State.setSp_disp (s : State) (a : Fin 17) : (s.setSp a).disp = s.disp := rfl
@[simp] theorem State.setSp_dt (s : State) (a : Fin 17) : (s.setSp a).dt = s.dt := rfl
@[simp] theorem State.setSp_st (s : State) (a : Fin 17) : (s.setSp a).st = s.st := rfl
@[simp] theorem State.setSp_keys (s : State) (a : Fin 17) : (s.setSp a).keys = s.keys := rfl
@[simp] theorem State.setSp_draws (s : State) (a : Fin 17) : (s.setSp a).draws = s.draws := rfl
@[simp] theorem State.setSp_readV (s : State) (a : Fin 17) (r : RegIdx) : (s.setSp a).readV r = s.readV r := rfl

/-! ### `setDisp` -/

@[simp] theorem State.setDisp_mem (s : State) (a : Display) : (s.setDisp a).mem = s.mem := rfl
@[simp] theorem State.setDisp_v (s : State) (a : Display) : (s.setDisp a).v = s.v := rfl
@[simp] theorem State.setDisp_i (s : State) (a : Display) : (s.setDisp a).i = s.i := rfl
@[simp] theorem State.setDisp_pc (s : State) (a : Display) : (s.setDisp a).pc = s.pc := rfl
@[simp] theorem State.setDisp_stack (s : State) (a : Display) : (s.setDisp a).stack = s.stack := rfl
@[simp] theorem State.setDisp_sp (s : State) (a : Display) : (s.setDisp a).sp = s.sp := rfl
@[simp] theorem State.setDisp_disp (s : State) (a : Display) : (s.setDisp a).disp = a := rfl
@[simp] theorem State.setDisp_dt (s : State) (a : Display) : (s.setDisp a).dt = s.dt := rfl
@[simp] theorem State.setDisp_st (s : State) (a : Display) : (s.setDisp a).st = s.st := rfl
@[simp] theorem State.setDisp_keys (s : State) (a : Display) : (s.setDisp a).keys = s.keys := rfl
@[simp] theorem State.setDisp_draws (s : State) (a : Display) : (s.setDisp a).draws = s.draws := rfl
@[simp] theorem State.setDisp_readV (s : State) (a : Display) (r : RegIdx) : (s.setDisp a).readV r = s.readV r := rfl

/-! ### `setDt` -/

@[simp] theorem State.setDt_mem (s : State) (a : Byte) : (s.setDt a).mem = s.mem := rfl
@[simp] theorem State.setDt_v (s : State) (a : Byte) : (s.setDt a).v = s.v := rfl
@[simp] theorem State.setDt_i (s : State) (a : Byte) : (s.setDt a).i = s.i := rfl
@[simp] theorem State.setDt_pc (s : State) (a : Byte) : (s.setDt a).pc = s.pc := rfl
@[simp] theorem State.setDt_stack (s : State) (a : Byte) : (s.setDt a).stack = s.stack := rfl
@[simp] theorem State.setDt_sp (s : State) (a : Byte) : (s.setDt a).sp = s.sp := rfl
@[simp] theorem State.setDt_disp (s : State) (a : Byte) : (s.setDt a).disp = s.disp := rfl
@[simp] theorem State.setDt_dt (s : State) (a : Byte) : (s.setDt a).dt = a := rfl
@[simp] theorem State.setDt_st (s : State) (a : Byte) : (s.setDt a).st = s.st := rfl
@[simp] theorem State.setDt_keys (s : State) (a : Byte) : (s.setDt a).keys = s.keys := rfl
@[simp] theorem State.setDt_draws (s : State) (a : Byte) : (s.setDt a).draws = s.draws := rfl
@[simp] theorem State.setDt_readV (s : State) (a : Byte) (r : RegIdx) : (s.setDt a).readV r = s.readV r := rfl

/-! ### `setSt` -/

@[simp] theorem State.setSt_mem (s : State) (a : Byte) : (s.setSt a).mem = s.mem := rfl
@[simp] theorem State.setSt_v (s : State) (a : Byte) : (s.setSt a).v = s.v := rfl
@[simp] theorem State.setSt_i (s : State) (a : Byte) : (s.setSt a).i = s.i := rfl
@[simp] theorem State.setSt_pc (s : State) (a : Byte) : (s.setSt a).pc = s.pc := rfl
@[simp] theorem State.setSt_stack (s : State) (a : Byte) : (s.setSt a).stack = s.stack := rfl
@[simp] theorem State.setSt_sp (s : State) (a : Byte) : (s.setSt a).sp = s.sp := rfl
@[simp] theorem State.setSt_disp (s : State) (a : Byte) : (s.setSt a).disp = s.disp := rfl
@[simp] theorem State.setSt_dt (s : State) (a : Byte) : (s.setSt a).dt = s.dt := rfl
@[simp] theorem State.setSt_st (s : State) (a : Byte) : (s.setSt a).st = a := rfl
@[simp] theorem State.setSt_keys (s : State) (a : Byte) : (s.setSt a).keys = s.keys := rfl
@[simp] theorem State.setSt_draws (s : State) (a : Byte) : (s.setSt a).draws = s.draws := rfl
@[simp] theorem State.setSt_readV (s : State) (a : Byte) (r : RegIdx) : (s.setSt a).readV r = s.readV r := rfl

/-! ### `setKeys` -/

@[simp] theorem State.setKeys_mem (s : State) (a : Vector Bool 16) : (s.setKeys a).mem = s.mem := rfl
@[simp] theorem State.setKeys_v (s : State) (a : Vector Bool 16) : (s.setKeys a).v = s.v := rfl
@[simp] theorem State.setKeys_i (s : State) (a : Vector Bool 16) : (s.setKeys a).i = s.i := rfl
@[simp] theorem State.setKeys_pc (s : State) (a : Vector Bool 16) : (s.setKeys a).pc = s.pc := rfl
@[simp] theorem State.setKeys_stack (s : State) (a : Vector Bool 16) : (s.setKeys a).stack = s.stack := rfl
@[simp] theorem State.setKeys_sp (s : State) (a : Vector Bool 16) : (s.setKeys a).sp = s.sp := rfl
@[simp] theorem State.setKeys_disp (s : State) (a : Vector Bool 16) : (s.setKeys a).disp = s.disp := rfl
@[simp] theorem State.setKeys_dt (s : State) (a : Vector Bool 16) : (s.setKeys a).dt = s.dt := rfl
@[simp] theorem State.setKeys_st (s : State) (a : Vector Bool 16) : (s.setKeys a).st = s.st := rfl
@[simp] theorem State.setKeys_keys (s : State) (a : Vector Bool 16) : (s.setKeys a).keys = a := rfl
@[simp] theorem State.setKeys_draws (s : State) (a : Vector Bool 16) : (s.setKeys a).draws = s.draws := rfl
@[simp] theorem State.setKeys_readV (s : State) (a : Vector Bool 16) (r : RegIdx) : (s.setKeys a).readV r = s.readV r := rfl

/-! ### `setDraws` -/

@[simp] theorem State.setDraws_mem (s : State) (a : Nat) : (s.setDraws a).mem = s.mem := rfl
@[simp] theorem State.setDraws_v (s : State) (a : Nat) : (s.setDraws a).v = s.v := rfl
@[simp] theorem State.setDraws_i (s : State) (a : Nat) : (s.setDraws a).i = s.i := rfl
@[simp] theorem State.setDraws_pc (s : State) (a : Nat) : (s.setDraws a).pc = s.pc := rfl
@[simp] theorem State.setDraws_stack (s : State) (a : Nat) : (s.setDraws a).stack = s.stack := rfl
@[simp] theorem State.setDraws_sp (s : State) (a : Nat) : (s.setDraws a).sp = s.sp := rfl
@[simp] theorem State.setDraws_disp (s : State) (a : Nat) : (s.setDraws a).disp = s.disp := rfl
@[simp] theorem State.setDraws_dt (s : State) (a : Nat) : (s.setDraws a).dt = s.dt := rfl
@[simp] theorem State.setDraws_st (s : State) (a : Nat) : (s.setDraws a).st = s.st := rfl
@[simp] theorem State.setDraws_keys (s : State) (a : Nat) : (s.setDraws a).keys = s.keys := rfl
@[simp] theorem State.setDraws_draws (s : State) (a : Nat) : (s.setDraws a).draws = a := rfl
@[simp] theorem State.setDraws_readV (s : State) (a : Nat) (r : RegIdx) : (s.setDraws a).readV r = s.readV r := rfl

/-! ### `writeV` and `writeFlagThenResult` -/

@[simp] theorem State.writeV_mem (s : State) (x : RegIdx) (b : Byte) : (s.writeV x b).mem = s.mem := rfl
@[simp] theorem State.writeV_i (s : State) (x : RegIdx) (b : Byte) : (s.writeV x b).i = s.i := rfl
@[simp] theorem State.writeV_pc (s : State) (x : RegIdx) (b : Byte) : (s.writeV x b).pc = s.pc := rfl
@[simp] theorem State.writeV_stack (s : State) (x : RegIdx) (b : Byte) : (s.writeV x b).stack = s.stack := rfl
@[simp] theorem State.writeV_sp (s : State) (x : RegIdx) (b : Byte) : (s.writeV x b).sp = s.sp := rfl
@[simp] theorem State.writeV_disp (s : State) (x : RegIdx) (b : Byte) : (s.writeV x b).disp = s.disp := rfl
@[simp] theorem State.writeV_dt (s : State) (x : RegIdx) (b : Byte) : (s.writeV x b).dt = s.dt := rfl
@[simp] theorem State.writeV_st (s : State) (x : RegIdx) (b : Byte) : (s.writeV x b).st = s.st := rfl
@[simp] theorem State.writeV_keys (s : State) (x : RegIdx) (b : Byte) : (s.writeV x b).keys = s.keys := rfl
@[simp] theorem State.writeV_draws (s : State) (x : RegIdx) (b : Byte) : (s.writeV x b).draws = s.draws := rfl

/-- A register read after a register write. -/
@[simp] theorem State.writeV_readV (s : State) (x r : RegIdx) (b : Byte) :
    (s.writeV x b).readV r = if r = x then b else s.readV r := by
  simp [State.writeV, State.readV, Vector.getElem_set, Fin.ext_iff, eq_comm]

@[simp] theorem State.writeFlagThenResult_mem (s : State) (x : RegIdx) (f b : Byte) :
    (s.writeFlagThenResult x f b).mem = s.mem := rfl
@[simp] theorem State.writeFlagThenResult_i (s : State) (x : RegIdx) (f b : Byte) :
    (s.writeFlagThenResult x f b).i = s.i := rfl
@[simp] theorem State.writeFlagThenResult_pc (s : State) (x : RegIdx) (f b : Byte) :
    (s.writeFlagThenResult x f b).pc = s.pc := rfl
@[simp] theorem State.writeFlagThenResult_stack (s : State) (x : RegIdx) (f b : Byte) :
    (s.writeFlagThenResult x f b).stack = s.stack := rfl
@[simp] theorem State.writeFlagThenResult_sp (s : State) (x : RegIdx) (f b : Byte) :
    (s.writeFlagThenResult x f b).sp = s.sp := rfl
@[simp] theorem State.writeFlagThenResult_disp (s : State) (x : RegIdx) (f b : Byte) :
    (s.writeFlagThenResult x f b).disp = s.disp := rfl
@[simp] theorem State.writeFlagThenResult_dt (s : State) (x : RegIdx) (f b : Byte) :
    (s.writeFlagThenResult x f b).dt = s.dt := rfl
@[simp] theorem State.writeFlagThenResult_st (s : State) (x : RegIdx) (f b : Byte) :
    (s.writeFlagThenResult x f b).st = s.st := rfl
@[simp] theorem State.writeFlagThenResult_keys (s : State) (x : RegIdx) (f b : Byte) :
    (s.writeFlagThenResult x f b).keys = s.keys := rfl
@[simp] theorem State.writeFlagThenResult_draws (s : State) (x : RegIdx) (f b : Byte) :
    (s.writeFlagThenResult x f b).draws = s.draws := rfl

/-- R17: the result is written last, so it stays where both address the same register. -/
@[simp] theorem State.writeFlagThenResult_readV (s : State) (x r : RegIdx) (f b : Byte) :
    (s.writeFlagThenResult x f b).readV r = if r = x then b else if r = flagIdx then f else s.readV r := by
  simp [State.writeFlagThenResult]

/-- A pixel read after a pixel write. -/
@[simp] theorem Display.setPixel_pixel (d : Display) (r r' : Fin 32) (c c' : Fin 64) (b : Bool) :
    Display.pixel (Display.setPixel d r c b) r' c' = if r' = r ∧ c' = c then b else Display.pixel d r' c' := by
  by_cases h : r = r'
  · subst h
    simp [Display.pixel, Display.setPixel, Vector.getElem_set, Fin.ext_iff, eq_comm]
  · have h' : ¬ r' = r := fun e => h e.symm
    simp [Display.pixel, Display.setPixel, Fin.val_inj, h, h']

/-- Every pixel of the blank grid is 0. -/
@[simp] theorem Display.blank_pixel (r : Fin 32) (c : Fin 64) : Display.pixel Display.blank r c = false := by
  simp [Display.pixel, Display.blank]

/-- Two grids with the same pixels are the same grid. -/
theorem Display.ext_pixel {d e : Display} (h : ∀ r c, Display.pixel d r c = Display.pixel e r c) : d = e := by
  ext r hr c hc
  exact h ⟨r, hr⟩ ⟨c, hc⟩

/-- Two register files with the same registers are the same. -/
theorem State.v_ext {s t : State} (h : ∀ r, s.readV r = t.readV r) : s.v = t.v := by
  ext r hr : 1
  exact h ⟨r, hr⟩

end Sys2Proof.Machine
end

