-- ==== Sys2Proof/Laws/Frames.lean ====
section
/-! SUPPORT. The frame predicates of Safety.lean from equal fields. -/

namespace Sys2Proof.Machine

theorem sameMem_of_eq {s t : State} (h : t.mem = s.mem) : sameMem s t := fun a => by rw [h]

theorem sameRegs_of_eq {s t : State} (h : t.v = s.v) : sameRegs s t := fun r => by simp only [State.readV, h]

theorem sameButRegs_of_eq {s t : State} (hm : t.mem = s.mem) (hi : t.i = s.i) (hk : t.stack = s.stack)
    (hp : t.sp = s.sp) (hd : t.disp = s.disp) (hdt : t.dt = s.dt) (hst : t.st = s.st) (hkeys : t.keys = s.keys)
    (hn : t.draws = s.draws) : sameButRegs s t :=
  ⟨sameMem_of_eq hm, hi, ⟨hk, hp⟩, ⟨hd, hdt, hst, hkeys⟩, hn⟩

/-- Two states with equal registers and with nothing else different but `PC`. -/
theorem sameButPc_of_eq {s t : State} (hv : t.v = s.v) (h : sameButRegs s t) : sameButPc s t :=
  ⟨sameRegs_of_eq hv, h⟩

theorem sameMem_refl (s : State) : sameMem s s := fun _ => rfl

theorem sameMem_trans {s t u : State} (h : sameMem s t) (h' : sameMem t u) : sameMem s u :=
  fun a => (h' a).trans (h a)

theorem sameRegs_trans {s t u : State} (h : sameRegs s t) (h' : sameRegs t u) : sameRegs s u :=
  fun r => (h' r).trans (h r)

/-- Writing registers, `PC` or both changes nothing else. -/
theorem sameButRegs_setVs_setPc (s : State) (v : Vector Byte 16) (w : Word) :
    sameButRegs s ((s.setVs v).setPc w) :=
  ⟨fun _ => rfl, rfl, ⟨rfl, rfl⟩, ⟨rfl, rfl, rfl, rfl⟩, rfl⟩

/-- Moving `PC` changes nothing else. -/
theorem sameButPc_setPc (s : State) (w : Word) : sameButPc s (s.setPc w) :=
  ⟨fun _ => rfl, fun _ => rfl, rfl, ⟨rfl, rfl⟩, ⟨rfl, rfl, rfl, rfl⟩, rfl⟩

end Sys2Proof.Machine
end

