-- ==== Sys2Proof/Laws/Memory.lean ====
section
/-! SUPPORT. The laws of the memory primitives: a read after a write, and that every write keeps the canonical
form. -/

namespace Sys2Proof.Machine

theorem Memory.read_nil (a : Nat) : Memory.read [] a = Memory.background a := rfl

theorem Memory.read_cons (c : Host.Cell) (m : Memory) (a : Nat) :
    Memory.read (c :: m) a = if a = c.1 then c.2 else Memory.read m a := rfl

/-- A dropped cell reads as the reset contents, and no other address changes. -/
theorem Memory.read_dropCell (m : Memory) (a b : Nat) :
    (m.dropCell a).read b = if b = a then Memory.background a else m.read b := by
  induction m with
  | nil => by_cases h : b = a <;> simp [Memory.dropCell, Memory.read, h]
  | cons c m ih =>
    simp only [Memory.dropCell] at ih
    by_cases hc : c.1 = a
    · simp only [Memory.dropCell, List.filter_cons, hc, bne_self_eq_false, Memory.read_cons]
      rw [if_neg (by simp), ih]
      by_cases h : b = a <;> simp [h]
    · have hc' : (c.1 != a) = true := by simp [hc]
      simp only [Memory.dropCell, List.filter_cons, hc', if_true, Memory.read_cons, ih]
      by_cases h : b = c.1
      · have : b ≠ a := fun e => hc (h ▸ e)
        simp [h, hc]
      · simp [h]

/-- No cell is listed at a dropped address. -/
theorem Memory.not_mem_dropCell (m : Memory) (a : Nat) : ∀ c ∈ m.dropCell a, c.1 ≠ a := by
  intro c hc
  simpa using (List.mem_filter.mp hc).2

/-- An inserted cell is read at its address, provided none was listed there. -/
theorem Memory.read_insertCell (m : Memory) (a : Nat) (v : Byte) (b : Nat) (h : ∀ c ∈ m, c.1 ≠ a) :
    (Memory.insertCell a v m).read b = if b = a then v else m.read b := by
  induction m with
  | nil => simp [Memory.insertCell, Memory.read]
  | cons c m ih =>
    have hc : c.1 ≠ a := h c (by simp)
    simp only [Memory.insertCell]
    split
    · simp [Memory.read_cons]
    · simp only [Memory.read_cons, ih (fun d hd => h d (by simp [hd]))]
      by_cases hb : b = c.1
      · simp [hb, hc]
      · simp [hb]

/-- A read after a write gives the value written; a write leaves every other address alone. -/
@[simp] theorem Memory.read_write (m : Memory) (a : Nat) (v : Byte) (b : Nat) :
    (m.write a v).read b = if b = a then v else m.read b := by
  unfold Memory.write
  split
  · next h => rw [Memory.read_dropCell, h]
  · rw [Memory.read_insertCell _ _ _ _ (Memory.not_mem_dropCell m a), Memory.read_dropCell]
    by_cases hb : b = a <;> simp [hb]

/-- A read after a block write: inside the block its byte, outside what was there. -/
theorem Memory.read_writeBytes (m : Memory) (a : Nat) (bs : List Byte) (b : Nat) :
    (m.writeBytes a bs).read b = if a ≤ b then bs.getD (b - a) (m.read b) else m.read b := by
  induction bs generalizing m a with
  | nil => simp [Memory.writeBytes]
  | cons v bs ih =>
    simp only [Memory.writeBytes, ih, Memory.read_write]
    by_cases h : b = a
    · subst h
      simp
    · by_cases hlt : a ≤ b
      · have h1 : a + 1 ≤ b := by omega
        have h2 : b - a = (b - (a + 1)) + 1 := by omega
        simp [h, hlt, h1, h2]
      · have h1 : ¬ a + 1 ≤ b := by omega
        simp [h, hlt, h1]

/-- Inside the stored bytes a block write gives its own byte. -/
theorem Memory.read_writeBytes_inside (m : Memory) (a : Nat) (bs : List Byte) (j : Nat) (h : j < bs.length) :
    (m.writeBytes a bs).read (a + j) = bs[j] := by
  rw [Memory.read_writeBytes, if_pos (Nat.le_add_right a j), Nat.add_sub_cancel_left, List.getD_eq_getElem _ _ h]

/-- Outside the stored bytes a block write changes nothing. -/
theorem Memory.read_writeBytes_outside (m : Memory) (a : Nat) (bs : List Byte) (b : Nat)
    (h : ¬ (a ≤ b ∧ b < a + bs.length)) : (m.writeBytes a bs).read b = m.read b := by
  rw [Memory.read_writeBytes]
  split
  · next hle => exact List.getD_eq_default _ _ (by omega)
  · rfl

@[simp] theorem Memory.length_readBytes (m : Memory) (a n : Nat) : (m.readBytes a n).length = n := by
  induction n generalizing a with
  | zero => rfl
  | succ n ih => simp [Memory.readBytes, ih]

/-- The bytes a block read gives. -/
theorem Memory.getElem_readBytes (m : Memory) (a n j : Nat) (h : j < (m.readBytes a n).length) :
    (m.readBytes a n)[j] = m.read (a + j) := by
  induction n generalizing a j with
  | zero => simp [Memory.readBytes] at h
  | succ n ih =>
    cases j with
    | zero => simp [Memory.readBytes]
    | succ j =>
      simp only [Memory.readBytes, List.getElem_cons_succ]
      rw [ih (a + 1) j (by simp at h ⊢; omega)]
      congr 1
      omega

/-! ### The canonical form -/

theorem Memory.wf_nil : Memory.wf [] := by simp [Memory.wf]

theorem Memory.wf_dropCell {m : Memory} (h : m.wf) (a : Nat) : (m.dropCell a).wf :=
  ⟨h.1.sublist List.filter_sublist, fun c hc => h.2 c (List.mem_filter.mp hc).1⟩

theorem Memory.mem_insertCell {m : Memory} {a : Nat} {v : Byte} {c : Host.Cell}
    (h : c ∈ Memory.insertCell a v m) : c = (a, v) ∨ c ∈ m := by
  induction m with
  | nil => simpa [Memory.insertCell] using h
  | cons d m ih =>
    simp only [Memory.insertCell] at h
    split at h
    · simpa using h
    · rcases List.mem_cons.mp h with rfl | h
      · simp
      · rcases ih h with h | h <;> simp [h]

theorem Memory.wf_insertCell {m : Memory} (h : m.wf) {a : Nat} {v : Byte} (ha : a < 0x1000)
    (hv : v ≠ Memory.background a) (hm : ∀ c ∈ m, c.1 ≠ a) : (Memory.insertCell a v m).wf := by
  refine ⟨?_, fun c hc => ?_⟩
  · have hp := h.1
    clear h
    induction m with
    | nil => simp [Memory.insertCell]
    | cons d m ih =>
      obtain ⟨hd, ht⟩ := List.pairwise_cons.mp hp
      have hda : d.1 ≠ a := hm d (by simp)
      simp only [Memory.insertCell]
      split
      · next hlt =>
        refine List.pairwise_cons.mpr ⟨fun c hc => ?_, hp⟩
        rcases List.mem_cons.mp hc with rfl | hc
        · exact hlt
        · exact Nat.lt_trans hlt (hd c hc)
      · refine List.pairwise_cons.mpr ⟨fun c hc => ?_, ih (fun c hc => hm c (by simp [hc])) ht⟩
        rcases Memory.mem_insertCell hc with rfl | hc
        · show d.1 < a
          omega
        · exact hd c hc
  · rcases Memory.mem_insertCell hc with rfl | hc
    · exact ⟨ha, hv⟩
    · exact h.2 c hc

/-- A write inside memory keeps the canonical form. -/
theorem Memory.wf_write {m : Memory} (h : m.wf) {a : Nat} (ha : a < 0x1000) (v : Byte) : (m.write a v).wf := by
  unfold Memory.write
  split
  · exact Memory.wf_dropCell h a
  · next hv => exact Memory.wf_insertCell (Memory.wf_dropCell h a) ha hv (Memory.not_mem_dropCell m a)

/-- A block write inside memory keeps the canonical form. -/
theorem Memory.wf_writeBytes {m : Memory} (h : m.wf) (a : Nat) (bs : List Byte) (ha : a + bs.length ≤ 0x1000) :
    (m.writeBytes a bs).wf := by
  induction bs generalizing m a with
  | nil => exact h
  | cons b bs ih =>
    simp only [List.length_cons] at ha
    exact ih (Memory.wf_write h (by omega) b) (a + 1) (by omega)

end Sys2Proof.Machine
end

