-- ==== Sys2Proof/Laws/Ops.lean ====
section
/-! SUPPORT. What each shared operation can do, said once: the commit, a raised status, the fetch, a store at `I`,
a block load, one cycle. -/

namespace Sys2Proof.Machine

/-! ### Commit and raise -/

@[simp] theorem commit_eq_next (k : NextPc) (s t : State) :
    commit k s = .next t ↔ t = s.setPc (k.apply s.pc) := by
  simp [commit, eq_comm]

@[simp] theorem commit_ne_fault (k : NextPc) (s : State) (f : Fault) : commit k s ≠ .fault f := nofun

@[simp] theorem commit_ne_refused (k : NextPc) (s : State) (r : Refusal) : commit k s ≠ .refused r := nofun

@[simp] theorem raise_ne_next (f : Fault) (t : State) : raise f ≠ .next t := nofun

@[simp] theorem raise_eq_fault (f g : Fault) : raise f = .fault g ↔ f = g := by simp [raise]

@[simp] theorem raise_ne_refused (f : Fault) (r : Refusal) : raise f ≠ .refused r := nofun

@[simp] theorem NextPc.apply_next (pc : Word) : NextPc.next.apply pc = pc + 2 := rfl
@[simp] theorem NextPc.apply_skip (pc : Word) : NextPc.skip.apply pc = pc + 4 := rfl
@[simp] theorem NextPc.apply_goto (t pc : Word) : (NextPc.goto t).apply pc = t := rfl
@[simp] theorem NextPc.apply_hold (pc : Word) : NextPc.hold.apply pc = pc := rfl

@[simp] theorem State.setPc_pc_self (s : State) : s.setPc s.pc = s := rfl

/-- A hold answers the very state it was given. -/
theorem commit_hold (s : State) : commit .hold s = .next s := rfl

/-! ### Shared meanings -/

@[simp] theorem skipWhen_eq_next (c : Bool) (s t : State) :
    skipWhen c s = .next t ↔ t = s.setPc (if c then s.pc + 4 else s.pc + 2) := by
  cases c <;> simp [skipWhen]

@[simp] theorem skipWhen_ne_fault (c : Bool) (s : State) (f : Fault) : skipWhen c s ≠ .fault f := nofun

@[simp] theorem skipWhen_ne_refused (c : Bool) (s : State) (r : Refusal) : skipWhen c s ≠ .refused r := nofun

@[simp] theorem writeResult_eq_next (x : RegIdx) (b : Byte) (s t : State) :
    writeResult x b s = .next t ↔ t = (s.writeV x b).setPc (s.pc + 2) := by
  simp [writeResult]

@[simp] theorem writeResult_ne_fault (x : RegIdx) (b : Byte) (s : State) (f : Fault) :
    writeResult x b s ≠ .fault f := nofun

@[simp] theorem writeResult_ne_refused (x : RegIdx) (b : Byte) (s : State) (r : Refusal) :
    writeResult x b s ≠ .refused r := nofun

@[simp] theorem writeFlagged_eq_next (x : RegIdx) (f b : Byte) (s t : State) :
    writeFlagged x f b s = .next t ↔ t = (s.writeFlagThenResult x f b).setPc (s.pc + 2) := by
  simp [writeFlagged]

@[simp] theorem writeFlagged_ne_fault (x : RegIdx) (f b : Byte) (s : State) (g : Fault) :
    writeFlagged x f b s ≠ .fault g := nofun

@[simp] theorem writeFlagged_ne_refused (x : RegIdx) (f b : Byte) (s : State) (r : Refusal) :
    writeFlagged x f b s ≠ .refused r := nofun

/-- A store at `I` commits exactly when its range lies in 0x200..0xFFF; then it writes the bytes and nothing else. -/
theorem storeAtI_eq_next (bs : List Byte) (s t : State) :
    storeAtI bs s = .next t ↔ 0x200 ≤ s.i.toNat ∧ inBounds s.i.toNat bs.length ∧
      t = (s.setMem (s.mem.writeBytes s.i.toNat bs)).setPc (s.pc + 2) := by
  unfold storeAtI
  split
  · next h => simp at h ⊢; omega
  · next h =>
    split
    · next hb => simp at h; simp [hb, h]
    · next hb => simp [hb]

/-- A store at `I` that does not commit raises `OutOfBounds`, for the reserved range or for the end of memory. -/
theorem storeAtI_eq_fault (bs : List Byte) (s : State) (f : Fault) :
    storeAtI bs s = .fault f ↔
      (s.i.toNat < 0x200 ∧ f = .outOfBounds .reservedStore) ∨
      (0x200 ≤ s.i.toNat ∧ ¬ inBounds s.i.toNat bs.length ∧ f = .outOfBounds .store) := by
  unfold storeAtI
  split
  · next h =>
    have h' : ¬ 512 ≤ s.i.toNat := by simp at h; omega
    simp [h, h', @eq_comm _ _ f]
  · next h =>
    have h' : 512 ≤ s.i.toNat := by simp at h; omega
    split
    · next hb => simp [h, hb]
    · next hb => simp [h, h', hb, @eq_comm _ _ f]

theorem storeAtI_ne_refused (bs : List Byte) (s : State) (r : Refusal) : storeAtI bs s ≠ .refused r := by
  unfold storeAtI
  split
  · simp
  · split <;> simp

/-! ### Operands -/

@[simp] theorem decimalDigits_length (b : Byte) : (decimalDigits b).length = 3 := rfl

@[simp] theorem regBytes_length (s : State) (x : RegIdx) : (regBytes s x).length = x.val + 1 := by
  simp [regBytes]

/-- Byte `j` of a block store is `V[j]`. -/
theorem regBytes_getElem (s : State) (x : RegIdx) (j : Nat) (h : j < (regBytes s x).length) :
    (regBytes s x)[j] = s.readV ⟨j, by simp at h; omega⟩ := by
  simp [regBytes, State.readV]

/-- A block load: `V[0]` to `V[x]` from memory, the registers above `x` as they were. -/
@[simp] theorem loadedRegs_getElem (s : State) (base : Nat) (x j : RegIdx) :
    (loadedRegs s base x)[j.val] = if j ≤ x then s.mem.read (base + j.val) else s.readV j := by
  simp [loadedRegs, State.readV]

theorem sixteenIndex_eq_some (b : Byte) (k : Fin 16) : sixteenIndex b = some k ↔ b.toNat = k.val := by
  unfold sixteenIndex
  split
  · simp [Fin.ext_iff]
  · simp; omega

theorem sixteenIndex_eq_none (b : Byte) : sixteenIndex b = none ↔ 0x0F < b.toNat := by
  unfold sixteenIndex
  split <;> simp <;> omega

/-- No key is pressed, or the answer is the smallest pressed one. -/
theorem lowestKey_eq_none (keys : Vector Bool 16) : lowestKey keys = none ↔ ∀ k : Fin 16, keys[k] = false := by
  simp [lowestKey, List.find?_eq_none]

theorem lowestKey_eq_some (keys : Vector Bool 16) (k : Fin 16) (h : lowestKey keys = some k) :
    keys[k] = true ∧ ∀ j : Fin 16, j < k → keys[j] = false := by
  obtain ⟨hk, as, bs, hl, has⟩ := List.find?_eq_some_iff_append.mp h
  refine ⟨by simpa using hk, fun j hj => ?_⟩
  have hs : (as ++ k :: bs).Pairwise (· < ·) := hl ▸ List.pairwise_lt_finRange 16
  have hm : j ∈ as ++ k :: bs := hl ▸ List.mem_finRange j
  rcases List.mem_append.mp hm with hj' | hj'
  · simpa using has j hj'
  · rcases List.mem_cons.mp hj' with rfl | hj'
    · exact absurd hj (lt_irrefl _)
    · have := (List.pairwise_cons.mp (List.pairwise_append.mp hs).2.1).1 j hj'
      exact absurd hj (not_lt.mpr this.le)

/-! ### Fetch and step -/

theorem fetchWord_eq_ok (s : State) (w : Word) :
    fetchWord s = .ok w ↔ s.pc.toNat ≤ 0xFFE ∧ w = s.mem.readWord s.pc.toNat := by
  unfold fetchWord
  split
  · simp; omega
  · split
    · simp; omega
    · have h : s.pc.toNat ≤ 4094 := by omega
      simp [h, eq_comm]

/-- One cycle that commits: its word was fetched inside memory, it decodes, and `exec` answers. -/
theorem step_eq_next (s t : State) :
    step s = .next t ↔ ∃ i, s.pc.toNat ≤ 0xFFE ∧ decodeWord (s.mem.readWord s.pc.toNat) = .ok i ∧
      exec i s = .next t := by
  unfold step
  cases hf : fetchWord s with
  | error f =>
    have : ¬ s.pc.toNat ≤ 0xFFE := fun h => by
      rw [(fetchWord_eq_ok s _).mpr ⟨h, rfl⟩] at hf
      exact absurd hf (by simp)
    simp only [raise_ne_next, false_iff, not_exists]
    exact fun i h => this h.1
  | ok w =>
    obtain ⟨hp, rfl⟩ := (fetchWord_eq_ok s w).mp hf
    cases hd : decodeWord (s.mem.readWord s.pc.toNat) with
    | error r => simp [hd]
    | ok i => simp [hd, hp]

end Sys2Proof.Machine
end

