-- ==== Sys2Proof/Laws/PerInstr.lean ====
section
/-! SUPPORT. Statements made for every instruction, one lemma per constructor.
`OpcodeMapRow`: the word the encoder builds lies in the instruction's own row of the opcode map (30_encoding.md R58). -/

namespace Sys2Proof.Laws.OpcodeMapRow

/-- The row of the instruction's number is in the map, and the encoded word matches it. -/
def Statement (i : Instr) : Prop :=
  ∃ r ∈ opcodeMap, r.number = i.rowNumber ∧ encode i &&& r.mask = r.value

theorem cls : Statement .cls :=
  ⟨⟨1, 0xFFFF, 0x00E0⟩, by decide, rfl, by decide⟩

theorem ret : Statement .ret :=
  ⟨⟨2, 0xFFFF, 0x00EE⟩, by decide, rfl, by decide⟩

theorem jp (nnn : Addr12) : Statement (.jp nnn) :=
  ⟨⟨3, 0xF000, 0x1000⟩, by decide, rfl, ((formatA_mask _ _).trans (by decide))⟩

theorem call (nnn : Addr12) : Statement (.call nnn) :=
  ⟨⟨4, 0xF000, 0x2000⟩, by decide, rfl, ((formatA_mask _ _).trans (by decide))⟩

theorem seByte (x : RegIdx) (kk : Byte) : Statement (.seByte x kk) :=
  ⟨⟨5, 0xF000, 0x3000⟩, by decide, rfl, ((formatXK_mask _ _ _).trans (by decide))⟩

theorem sneByte (x : RegIdx) (kk : Byte) : Statement (.sneByte x kk) :=
  ⟨⟨6, 0xF000, 0x4000⟩, by decide, rfl, ((formatXK_mask _ _ _).trans (by decide))⟩

theorem seReg (x y : RegIdx) : Statement (.seReg x y) :=
  ⟨⟨7, 0xF00F, 0x5000⟩, by decide, rfl, ((formatXY_mask _ _ _ _).trans (by decide))⟩

theorem ldByte (x : RegIdx) (kk : Byte) : Statement (.ldByte x kk) :=
  ⟨⟨8, 0xF000, 0x6000⟩, by decide, rfl, ((formatXK_mask _ _ _).trans (by decide))⟩

theorem addByte (x : RegIdx) (kk : Byte) : Statement (.addByte x kk) :=
  ⟨⟨9, 0xF000, 0x7000⟩, by decide, rfl, ((formatXK_mask _ _ _).trans (by decide))⟩

theorem ldReg (x y : RegIdx) : Statement (.ldReg x y) :=
  ⟨⟨10, 0xF00F, 0x8000⟩, by decide, rfl, ((formatXY_mask _ _ _ _).trans (by decide))⟩

theorem orReg (x y : RegIdx) : Statement (.orReg x y) :=
  ⟨⟨11, 0xF00F, 0x8001⟩, by decide, rfl, ((formatXY_mask _ _ _ _).trans (by decide))⟩

theorem andReg (x y : RegIdx) : Statement (.andReg x y) :=
  ⟨⟨12, 0xF00F, 0x8002⟩, by decide, rfl, ((formatXY_mask _ _ _ _).trans (by decide))⟩

theorem xorReg (x y : RegIdx) : Statement (.xorReg x y) :=
  ⟨⟨13, 0xF00F, 0x8003⟩, by decide, rfl, ((formatXY_mask _ _ _ _).trans (by decide))⟩

theorem addReg (x y : RegIdx) : Statement (.addReg x y) :=
  ⟨⟨14, 0xF00F, 0x8004⟩, by decide, rfl, ((formatXY_mask _ _ _ _).trans (by decide))⟩

theorem subReg (x y : RegIdx) : Statement (.subReg x y) :=
  ⟨⟨15, 0xF00F, 0x8005⟩, by decide, rfl, ((formatXY_mask _ _ _ _).trans (by decide))⟩

theorem shr (x y : RegIdx) : Statement (.shr x y) :=
  ⟨⟨16, 0xF00F, 0x8006⟩, by decide, rfl, ((formatXY_mask _ _ _ _).trans (by decide))⟩

theorem subnReg (x y : RegIdx) : Statement (.subnReg x y) :=
  ⟨⟨17, 0xF00F, 0x8007⟩, by decide, rfl, ((formatXY_mask _ _ _ _).trans (by decide))⟩

theorem shl (x y : RegIdx) : Statement (.shl x y) :=
  ⟨⟨18, 0xF00F, 0x800E⟩, by decide, rfl, ((formatXY_mask _ _ _ _).trans (by decide))⟩

theorem sneReg (x y : RegIdx) : Statement (.sneReg x y) :=
  ⟨⟨19, 0xF00F, 0x9000⟩, by decide, rfl, ((formatXY_mask _ _ _ _).trans (by decide))⟩

theorem ldI (nnn : Addr12) : Statement (.ldI nnn) :=
  ⟨⟨20, 0xF000, 0xA000⟩, by decide, rfl, ((formatA_mask _ _).trans (by decide))⟩

theorem jpV0 (nnn : Addr12) : Statement (.jpV0 nnn) :=
  ⟨⟨21, 0xF000, 0xB000⟩, by decide, rfl, ((formatA_mask _ _).trans (by decide))⟩

theorem rnd (x : RegIdx) (kk : Byte) : Statement (.rnd x kk) :=
  ⟨⟨22, 0xF000, 0xC000⟩, by decide, rfl, ((formatXK_mask _ _ _).trans (by decide))⟩

theorem drw (x y : RegIdx) (n : Nat) : Statement (.drw x y n) :=
  ⟨⟨23, 0xF000, 0xD000⟩, by decide, rfl, ((formatXYN_mask _ _ _ _).trans (by decide))⟩

theorem skp (x : RegIdx) : Statement (.skp x) :=
  ⟨⟨24, 0xF0FF, 0xE09E⟩, by decide, rfl, ((formatX_mask _ _ _).trans (by decide))⟩

theorem sknp (x : RegIdx) : Statement (.sknp x) :=
  ⟨⟨25, 0xF0FF, 0xE0A1⟩, by decide, rfl, ((formatX_mask _ _ _).trans (by decide))⟩

theorem ldVxDt (x : RegIdx) : Statement (.ldVxDt x) :=
  ⟨⟨26, 0xF0FF, 0xF007⟩, by decide, rfl, ((formatX_mask _ _ _).trans (by decide))⟩

theorem ldVxK (x : RegIdx) : Statement (.ldVxK x) :=
  ⟨⟨27, 0xF0FF, 0xF00A⟩, by decide, rfl, ((formatX_mask _ _ _).trans (by decide))⟩

theorem ldDtVx (x : RegIdx) : Statement (.ldDtVx x) :=
  ⟨⟨28, 0xF0FF, 0xF015⟩, by decide, rfl, ((formatX_mask _ _ _).trans (by decide))⟩

theorem ldStVx (x : RegIdx) : Statement (.ldStVx x) :=
  ⟨⟨29, 0xF0FF, 0xF018⟩, by decide, rfl, ((formatX_mask _ _ _).trans (by decide))⟩

theorem addI (x : RegIdx) : Statement (.addI x) :=
  ⟨⟨30, 0xF0FF, 0xF01E⟩, by decide, rfl, ((formatX_mask _ _ _).trans (by decide))⟩

theorem ldF (x : RegIdx) : Statement (.ldF x) :=
  ⟨⟨31, 0xF0FF, 0xF029⟩, by decide, rfl, ((formatX_mask _ _ _).trans (by decide))⟩

theorem ldB (x : RegIdx) : Statement (.ldB x) :=
  ⟨⟨32, 0xF0FF, 0xF033⟩, by decide, rfl, ((formatX_mask _ _ _).trans (by decide))⟩

theorem stRegs (x : RegIdx) : Statement (.stRegs x) :=
  ⟨⟨33, 0xF0FF, 0xF055⟩, by decide, rfl, ((formatX_mask _ _ _).trans (by decide))⟩

theorem ldRegs (x : RegIdx) : Statement (.ldRegs x) :=
  ⟨⟨34, 0xF0FF, 0xF065⟩, by decide, rfl, ((formatX_mask _ _ _).trans (by decide))⟩

end Sys2Proof.Laws.OpcodeMapRow
end

