-- ==== Sys2Proof/Laws/Screen.lean ====
section
/-! SUPPORT. What plotting one sprite pixel does (45_display.md R114, R115). -/

namespace Sys2Proof.Machine

/-- A plotted pixel is inverted where it lies in the grid; every other pixel stays. -/
theorem plot_pixel (row col : Nat) (k : Canvas) (r : Fin 32) (c : Fin 64) :
    Display.pixel (plot row col k).disp r c =
      (Display.pixel k.disp r c ^^ decide (r.val = row ∧ c.val = col)) := by
  unfold plot
  split
  · next h =>
    by_cases e : r.val = row ∧ c.val = col
    · obtain ⟨rfl, rfl⟩ := e
      cases Display.pixel k.disp r c <;> simp
    · have e' : ¬ (r = ⟨row, h.1⟩ ∧ c = ⟨col, h.2⟩) := fun e' => e (by simp [e'.1, e'.2])
      split <;> simp only [Display.setPixel_pixel, if_neg e', decide_eq_false e, Bool.xor_false]
  · next h =>
    have e : ¬ (r.val = row ∧ c.val = col) := by omega
    simp only [decide_eq_false e, Bool.xor_false]

/-- Plotting collides exactly where the pixel lies in the grid and was 1; a collision is never forgotten. -/
theorem plot_hit (row col : Nat) (k : Canvas) :
    (plot row col k).hit = true ↔
      k.hit = true ∨ ∃ (r : Fin 32) (c : Fin 64), r.val = row ∧ c.val = col ∧ Display.pixel k.disp r c = true := by
  unfold plot
  split
  · next h =>
    split
    · next hp => exact ⟨fun _ => .inr ⟨⟨row, h.1⟩, ⟨col, h.2⟩, rfl, rfl, hp⟩, fun _ => rfl⟩
    · next hp =>
      refine ⟨.inl, ?_⟩
      rintro (hk | ⟨r, c, rfl, rfl, h'⟩)
      · exact hk
      · exact absurd h' hp
  · next h =>
    refine ⟨.inl, ?_⟩
    rintro (hk | ⟨r, c, rfl, rfl, -⟩)
    · exact hk
    · omega

end Sys2Proof.Machine
end

