-- ==== Sys2Proof/Tests/Slice0.lean ====
section
/-! SUPPORT. The model's own tests. Words are written out from 30_encoding.md R56 and R58; expected values come from
spec/95_test_vectors.md, whose vector each theorem's comment names; the witnesses meet the hypotheses of the
statements in Certificates/Slice0/Obligations.lean. -/

namespace Sys2Proof.Tests

open Sys2Proof Sys2Proof.Machine

/-! ### Well-formedness -/

/-- The one check: a sprite of sixteen rows is no instruction, one of fifteen is. -/
theorem test_wellFormed_refuses_sixteen_rows :
    (Instr.drw 0 0 16).wellFormed = false ∧ (Instr.drw 0 0 15).wellFormed = true := by decide

/-! ### Decoding of written-out words -/

theorem test_decode_families_0_to_2 :
    decodeWord 0b0000000011100000 = .ok .cls ∧ decodeWord 0b0000000011101110 = .ok .ret ∧
    decodeWord 0b0001101010111100 = .ok (.jp 0xABC) ∧ decodeWord 0b0010000000000001 = .ok (.call 0x001) := by decide

theorem test_decode_families_3_to_7 :
    decodeWord 0b0011101000111100 = .ok (.seByte 10 0x3C) ∧ decodeWord 0b0100101000111100 = .ok (.sneByte 10 0x3C) ∧
    decodeWord 0b0101000100100000 = .ok (.seReg 1 2) ∧ decodeWord 0b0110000100001010 = .ok (.ldByte 1 0x0A) ∧
    decodeWord 0b0111111110000000 = .ok (.addByte 15 0x80) := by decide

theorem test_decode_family_8 :
    decodeWord 0b1000000100100000 = .ok (.ldReg 1 2) ∧ decodeWord 0b1000000100100001 = .ok (.orReg 1 2) ∧
    decodeWord 0b1000000100100010 = .ok (.andReg 1 2) ∧ decodeWord 0b1000000100100011 = .ok (.xorReg 1 2) ∧
    decodeWord 0b1000000100100100 = .ok (.addReg 1 2) ∧ decodeWord 0b1000000100100101 = .ok (.subReg 1 2) ∧
    decodeWord 0b1000000100100110 = .ok (.shr 1 2) ∧ decodeWord 0b1000000100100111 = .ok (.subnReg 1 2) ∧
    decodeWord 0b1000000100101110 = .ok (.shl 1 2) := by decide

theorem test_decode_families_9_to_D :
    decodeWord 0b1001000100100000 = .ok (.sneReg 1 2) ∧ decodeWord 0b1010000101000011 = .ok (.ldI 0x143) ∧
    decodeWord 0b1011000100100011 = .ok (.jpV0 0x123) ∧ decodeWord 0b1100001100001111 = .ok (.rnd 3 0x0F) ∧
    decodeWord 0b1101000100100100 = .ok (.drw 1 2 4) := by decide

theorem test_decode_families_E_and_F :
    decodeWord 0b1110010110011110 = .ok (.skp 5) ∧ decodeWord 0b1110010110100001 = .ok (.sknp 5) ∧
    decodeWord 0b1111010000000111 = .ok (.ldVxDt 4) ∧ decodeWord 0b1111001100001010 = .ok (.ldVxK 3) ∧
    decodeWord 0b1111010000010101 = .ok (.ldDtVx 4) ∧ decodeWord 0b1111000000011000 = .ok (.ldStVx 0) ∧
    decodeWord 0b1111001000011110 = .ok (.addI 2) ∧ decodeWord 0b1111010000101001 = .ok (.ldF 4) ∧
    decodeWord 0b1111000000110011 = .ok (.ldB 0) ∧ decodeWord 0b1111111101010101 = .ok (.stRegs 15) ∧
    decodeWord 0b1111001001100101 = .ok (.ldRegs 2) := by decide

/-- FE6, FE10, FE11, FE13, FE14, FE17, one word of each family that has unsupported words. -/
theorem test_decode_rejects :
    decodeWord 0x0000 = .error (.unsupported 0x0000) ∧ decodeWord 0x5121 = .error (.unsupported 0x5121) ∧
    decodeWord 0x8128 = .error (.unsupported 0x8128) ∧ decodeWord 0x9001 = .error (.unsupported 0x9001) ∧
    decodeWord 0xE19F = .error (.unsupported 0xE19F) ∧ decodeWord 0xF1FF = .error (.unsupported 0xF1FF) ∧
    decode [] = .error .truncated ∧ decode [0x00] = .error .truncated := by decide

/-- Two rows of R58 never match one word. -/
theorem test_opcode_rows_disjoint :
    opcodeMap.Pairwise fun r q => r.value &&& (r.mask &&& q.mask) ≠ q.value &&& (r.mask &&& q.mask) := by decide

theorem test_decodeTableWord :
    decodeTableWord 16 0xD124 = some (.drw 1 2 4) ∧ decodeTableWord 16 0x5121 = none := by decide

/-! ### One step of each instruction -/

/-- Reset with bytes placed at 0x200. -/
def start (bytes : List Byte) : State := State.reset.setMem (Memory.writeBytes [] 0x200 bytes)

/-- Bytes placed at an address. -/
def place (s : State) (a : Nat) (bytes : List Byte) : State := s.setMem (s.mem.writeBytes a bytes)

/-- A pixel set. -/
def lit (s : State) (r : Fin 32) (c : Fin 64) : State := s.setDisp (Display.setPixel s.disp r c true)

/-- Every listed pixel is on. -/
def allOn (s : State) (ps : List (Fin 32 × Fin 64)) : Bool := ps.all fun p => Display.pixel s.disp p.1 p.2

/-- Every listed pixel is off. -/
def allOff (s : State) (ps : List (Fin 32 × Fin 64)) : Bool := ps.all fun p => !Display.pixel s.disp p.1 p.2

/-- One cycle returns the status and its state passes the check. -/
def gives (s : State) (st : Status) (check : State → Bool) : Bool := decide ((cycle s).2 = st) && check (cycle s).1

/-- The outcome is a next state. -/
def isNext : Result → Bool
  | .next _ => true
  | .fault _ => false
  | .refused _ => false

theorem exists_of_isNext {r : Result} (h : isNext r = true) : ∃ t, r = .next t := by
  cases r <;> simp_all [isNext]

/-- The fault an outcome is. -/
def faultOf : Result → Option Fault
  | .next _ => none
  | .fault f => some f
  | .refused _ => none

theorem fault_of_faultOf {r : Result} {f : Fault} (h : faultOf r = some f) : r = .fault f := by
  cases r <;> simp_all [faultOf]

/-- FE4. -/
theorem test_fetch_last_word :
    gives ((place State.reset 0xFFE [0x60, 0x05]).setPc 0xFFE) .ok (fun t => t.readV 0 == 5 && t.pc == 0x1000) = true := by
  decide

/-- FE1, FE2, FE6: nothing changes. -/
theorem test_fetch_faults :
    cycle (State.reset.setPc 0xFFF) = (State.reset.setPc 0xFFF, .decodeError) ∧
    cycle (State.reset.setPc 0x1000) = (State.reset.setPc 0x1000, .outOfBounds) ∧
    cycle State.reset = (State.reset, .unsupportedInstruction) := by decide

/-- DR1. -/
theorem test_cls :
    gives (((start [0x00, 0xE0]).setDisp (Vector.replicate 32 (Vector.replicate 64 true))).writeV 15 7) .ok
      (fun t => allOff t [(0, 0), (0, 63), (17, 30), (31, 0), (31, 63)] && t.readV 15 == 7) = true := by decide

/-- FL12. -/
theorem test_ret :
    gives (((start [0x00, 0xEE]).setSp 16).setStack ((Vector.replicate 16 0).set 15 0x0ABC)) .ok
      (fun t => t.sp == 15 && t.pc == 0xABC) = true := by decide

/-- FL9. -/
theorem test_ret_underflow :
    cycle (start [0x00, 0xEE]) = (start [0x00, 0xEE], .stackUnderflow) := by decide

/-- FL3. -/
theorem test_jp : gives (start [0x1F, 0xFF]) .ok (fun t => t.pc == 0xFFF) = true := by decide

/-- FL7. -/
theorem test_call :
    gives ((start [0x22, 0x08]).setSp 15) .ok (fun t => t.stack[15] == 0x202 && t.sp == 16 && t.pc == 0x208) = true := by
  decide

/-- FL6. -/
theorem test_call_overflow :
    cycle ((start [0x22, 0x08]).setSp 16) = ((start [0x22, 0x08]).setSp 16, .stackOverflow) := by decide

/-- FL14. -/
theorem test_jpV0 : gives ((start [0xBF, 0xFF]).writeV 0 0xFF) .ok (fun t => t.pc == 0x10FE) = true := by decide

/-- SK1, SK2. -/
theorem test_seByte :
    gives ((start [0x3A, 0x3C]).writeV 10 0x3C) .ok (fun t => t.pc == 0x204) = true ∧
    gives ((start [0x3A, 0x3C]).writeV 10 0x3D) .ok (fun t => t.pc == 0x202) = true := by decide

/-- SK3, SK4. -/
theorem test_sneByte :
    gives ((start [0x4A, 0x3C]).writeV 10 0x3C) .ok (fun t => t.pc == 0x202) = true ∧
    gives ((start [0x4A, 0x3C]).writeV 10 0x3D) .ok (fun t => t.pc == 0x204) = true := by decide

/-- SK5, SK6. -/
theorem test_seReg :
    gives (((start [0x51, 0x20]).writeV 1 7).writeV 2 7) .ok (fun t => t.pc == 0x204) = true ∧
    gives (((start [0x51, 0x20]).writeV 1 7).writeV 2 8) .ok (fun t => t.pc == 0x202) = true := by decide

/-- SK8, SK9. -/
theorem test_sneReg :
    gives (((start [0x91, 0x20]).writeV 1 7).writeV 2 7) .ok (fun t => t.pc == 0x202) = true ∧
    gives (((start [0x91, 0x20]).writeV 1 7).writeV 2 8) .ok (fun t => t.pc == 0x204) = true := by decide

/-- S1, AL1. -/
theorem test_ldByte : gives (start [0x61, 0x0A]) .ok (fun t => t.readV 1 == 0x0A && t.pc == 0x202) = true := by decide

/-- AL3. -/
theorem test_addByte :
    gives (((start [0x72, 0x02]).writeV 2 0xFF).writeV 15 7) .ok (fun t => t.readV 2 == 1 && t.readV 15 == 7) = true := by
  decide

/-- AL6. -/
theorem test_ldReg :
    gives (((start [0x81, 0x20]).writeV 1 1).writeV 2 0xAB) .ok (fun t => t.readV 1 == 0xAB) = true := by decide

/-- AL7, AL8, AL9. -/
theorem test_logic :
    gives ((((start [0x81, 0x21]).writeV 1 0x0F).writeV 2 0xF0).writeV 15 9) .ok
      (fun t => t.readV 1 == 0xFF && t.readV 15 == 9) = true ∧
    gives ((((start [0x81, 0x22]).writeV 1 0x3C).writeV 2 0x0F).writeV 15 9) .ok
      (fun t => t.readV 1 == 0x0C && t.readV 15 == 9) = true ∧
    gives ((((start [0x81, 0x23]).writeV 1 0xFF).writeV 2 0x0F).writeV 15 9) .ok
      (fun t => t.readV 1 == 0xF0 && t.readV 15 == 9) = true := by decide

/-- AL14: a sum of exactly 255 is no carry. -/
theorem test_addReg :
    gives ((((start [0x81, 0x24]).writeV 1 0xFF).writeV 2 0x00).writeV 15 1) .ok
      (fun t => t.readV 1 == 0xFF && t.readV 15 == 0) = true := by decide

/-- AL16, AL18: `VF` as destination keeps the sum; `VF` as source is its old value. -/
theorem test_addReg_vf :
    gives (((start [0x8F, 0x14]).writeV 15 0xF0).writeV 1 0x20) .ok (fun t => t.readV 15 == 0x10) = true ∧
    gives (((start [0x80, 0xF4]).writeV 0 0xFE).writeV 15 3) .ok (fun t => t.readV 0 == 1 && t.readV 15 == 1) = true := by
  decide

/-- AL20, AL22. -/
theorem test_subReg :
    gives ((((start [0x81, 0x25]).writeV 1 3).writeV 2 5).writeV 15 1) .ok
      (fun t => t.readV 1 == 0xFE && t.readV 15 == 0) = true ∧
    gives (((start [0x81, 0x25]).writeV 1 7).writeV 2 7) .ok (fun t => t.readV 1 == 0 && t.readV 15 == 1) = true := by
  decide

/-- AL27: `V2` is neither read nor written. -/
theorem test_shr :
    gives (((start [0x81, 0x26]).writeV 1 5).writeV 2 0xFF) .ok
      (fun t => t.readV 1 == 2 && t.readV 15 == 1 && t.readV 2 == 0xFF) = true := by decide

/-- AL33, AL34. -/
theorem test_subnReg :
    gives (((start [0x81, 0x27]).writeV 1 3).writeV 2 5) .ok (fun t => t.readV 1 == 2 && t.readV 15 == 1) = true ∧
    gives ((((start [0x81, 0x27]).writeV 1 5).writeV 2 3).writeV 15 1) .ok
      (fun t => t.readV 1 == 0xFE && t.readV 15 == 0) = true := by decide

/-- AL37. -/
theorem test_shl :
    gives (((start [0x81, 0x2E]).writeV 1 0xC1).writeV 2 0xFF) .ok
      (fun t => t.readV 1 == 0x82 && t.readV 15 == 1 && t.readV 2 == 0xFF) = true := by decide

/-- AR1, S2. -/
theorem test_ldI : gives (start [0xA1, 0x43]) .ok (fun t => t.i == 0x143 && t.pc == 0x202) = true := by decide

/-- AL43: whatever byte is drawn, a mask of 0 gives 0. -/
theorem test_rnd_mask_zero (s : State) : exec (.rnd 3 0) s = .next (((s.setDraws (s.draws + 1)).writeV 3 0).setPc (s.pc + 2)) := by
  have h : Config.randomByte s.draws &&& (0 : Byte) = 0 := BitVec.and_zero
  simp only [exec, execRnd, writeResult, commit, NextPc.apply, h]
  rfl

/-- DR3, S4: clipping at the right and at the bottom edge. -/
theorem test_drw_clips :
    gives ((((place (start [0xD1, 0x24]) 0x300 [0xF0, 0x60, 0xF0, 0x60]).writeV 1 61).writeV 2 30).setI 0x300) .ok
      (fun t => t.readV 15 == 0 && allOn t [(30, 61), (30, 62), (30, 63), (31, 62), (31, 63)] &&
        allOff t [(31, 61), (30, 0), (0, 61), (0, 62), (31, 0), (1, 62)]) = true := by decide

/-- DR9: one collision is enough. -/
theorem test_drw_collides :
    gives ((lit (place (start [0xD1, 0x21]) 0x300 [0xC0]) 0 0).setI 0x300) .ok
      (fun t => t.readV 15 == 1 && allOff t [(0, 0), (0, 2)] && allOn t [(0, 1)]) = true := by decide

/-- KT1, KT3. -/
theorem test_skp :
    gives (keyWrite 10 true ((start [0xE5, 0x9E]).writeV 5 10)) .ok (fun t => t.pc == 0x204) = true ∧
    gives (keyWrite 11 true ((start [0xE5, 0x9E]).writeV 5 10)) .ok (fun t => t.pc == 0x202) = true := by decide

/-- KT4, KT8. -/
theorem test_sknp :
    gives (keyWrite 10 true ((start [0xE5, 0xA1]).writeV 5 10)) .ok (fun t => t.pc == 0x202) = true ∧
    gives ((start [0xE5, 0xA1]).writeV 5 0xFF) .outOfBounds (fun t => t.pc == 0x200) = true := by decide

/-- KT14. -/
theorem test_ldVxDt : gives ((start [0xF4, 0x07]).setDt 0x2A) .ok (fun t => t.readV 4 == 0x2A && t.dt == 0x2A) = true := by
  decide

/-- KT9. -/
theorem test_ldVxK_waits :
    cycle ((start [0xF3, 0x0A]).writeV 3 0x99) = ((start [0xF3, 0x0A]).writeV 3 0x99, .waitingForInput) := by decide

/-- KT11. -/
theorem test_ldVxK_lowest :
    gives (keyWrite 9 true (keyWrite 3 true (start [0xF3, 0x0A]))) .ok (fun t => t.readV 3 == 3) = true := by decide

/-- KT16. -/
theorem test_ldDtVx : gives ((start [0xF4, 0x15]).writeV 4 0x3C) .ok (fun t => t.dt == 0x3C && t.st == 0) = true := by decide

/-- KT18. -/
theorem test_ldStVx : gives ((start [0xF0, 0x18]).writeV 0 0xFF) .ok (fun t => t.st == 0xFF && t.dt == 0) = true := by decide

/-- AR5, AR6. -/
theorem test_addI :
    gives (((start [0xF2, 0x1E]).setI 0x0FFF).writeV 2 1) .ok (fun t => t.i == 0x1000 && t.readV 15 == 0) = true ∧
    gives (((start [0xF2, 0x1E]).setI 0xFFFF).writeV 2 2) .ok (fun t => t.i == 0x0001) = true := by decide

/-- AR10, AR11. -/
theorem test_ldF :
    gives ((start [0xF4, 0x29]).writeV 4 0x0F) .ok (fun t => t.i == 0x4B) = true ∧
    gives ((start [0xF4, 0x29]).writeV 4 0x10) .outOfBounds (fun t => t.i == 0) = true := by decide

/-- MO1. -/
theorem test_ldB :
    gives (((start [0xF0, 0x33]).writeV 0 0xFE).setI 0x300) .ok (fun t => t.mem.readBytes 0x300 3 == [2, 5, 4]) = true := by
  decide

/-- MO8: 0x200 and 0x201 are writable, 0x1FF is not. -/
theorem test_ldB_reserved :
    gives (((start [0xF0, 0x33]).writeV 0 0x7B).setI 0x1FF) .outOfBounds (fun t => t.mem.readBytes 0x1FF 3 == [0, 0xF0, 0x33]) =
      true := by decide

/-- MO16. -/
theorem test_stRegs :
    gives (((((start [0xF2, 0x55]).writeV 0 0x11).writeV 1 0x22).writeV 2 0x33).writeV 3 0x44 |>.setI 0x400) .ok
      (fun t => t.mem.readBytes 0x400 4 == [0x11, 0x22, 0x33, 0] && t.i == 0x400) = true := by decide

/-- MO22: the reserved range may be read. -/
theorem test_ldRegs :
    gives ((start [0xF2, 0x65]).writeV 3 0x99) .ok
      (fun t => t.readV 0 == 0xF0 && t.readV 1 == 0x90 && t.readV 2 == 0x90 && t.readV 3 == 0x99) = true := by decide

/-- MO24: `V0` is not loaded either. -/
theorem test_ldRegs_bounds : gives ((start [0xF1, 0x65]).setI 0xFFF) .outOfBounds (fun t => t.readV 0 == 0) = true := by decide

/-! ### Transactions -/

/-- HO1, HO2. -/
theorem test_load :
    transact Config.Params.default (.load 0xFFF [1, 2]) State.reset = (State.reset, .refused) ∧
    (transact Config.Params.default (.load 0xFFF [1]) State.reset).1.mem.read 0xFFF = 1 := by decide

/-- KT19, its first tick. -/
theorem test_tick :
    let t := run Config.Params.default (tick ((State.reset.setDt 1).setSt 2)) ((State.reset.setDt 1).setSt 2)
    t.dt = 0 ∧ t.st = 1 := by decide

/-- The word is stored where the next step fetches, also when nothing could be fetched there. -/
theorem test_withFetchWord :
    gives (State.reset.withFetchWord 16 0x610A) .ok (fun t => t.readV 1 == 0x0A && t.pc == 0x202) = true ∧
    gives ((State.reset.setPc 0xFFF).withFetchWord 16 0x610A) .ok (fun t => t.readV 1 == 0x0A) = true := by decide

/-! ### Witnesses: concrete inputs that meet the hypotheses of the statements -/

theorem witness_DecodeOfEncodeIsTheInstruction : (Instr.drw 15 0 15).wellFormed = true := by decide

theorem witness_EncodeOfDecodeIsTheWord : decodeWord 0xD12F = .ok (.drw 1 2 15) := by decide

/-- One word for each of the six clauses. -/
theorem witness_UnsupportedWordsAreThoseListed :
    (fieldOp 0x00E1 = 0x0 ∧ (0x00E1 : Word) ≠ 0x00E0 ∧ (0x00E1 : Word) ≠ 0x00EE) ∧
    (fieldOp 0x512F = 0x5 ∧ fieldN 0x512F ≠ 0) ∧
    (fieldOp 0x812F = 0x8 ∧ fieldN 0x812F ∈ ([0x8, 0x9, 0xA, 0xB, 0xC, 0xD, 0xF] : List Nibble)) ∧
    (fieldOp 0x9001 = 0x9 ∧ fieldN 0x9001 ≠ 0) ∧
    (fieldOp 0xE19F = 0xE ∧ fieldKK 0xE19F ∉ ([0x9E, 0xA1] : List Byte)) ∧
    (fieldOp 0xF175 = 0xF ∧
      fieldKK 0xF175 ∉ ([0x07, 0x0A, 0x15, 0x18, 0x1E, 0x29, 0x33, 0x55, 0x65] : List Byte)) := by decide

theorem witness_OpcodeMapRowSelectsTheInstruction :
    (⟨34, 0xF0FF, 0xF065⟩ : OpcodeRow) ∈ opcodeMap ∧ (0xF265 : Word) &&& 0xF0FF = 0xF065 := by decide

/-- The three clauses at the values where they meet. -/
theorem witness_FetchBoundsAndByteOrder :
    0x1000 ≤ (State.reset.setPc 0x1000).pc.toNat ∧ (State.reset.setPc 0xFFF).pc.toNat = 0xFFF ∧
    (State.reset.setPc 0xFFE).pc.toNat ≤ 0xFFE := by decide

/-- Both clauses: at the last address a word that decodes, and after reset one that does not. -/
theorem witness_StepRunsTheDecodedInstruction :
    let s := (place State.reset 0xFFE [0x60, 0x05]).setPc 0xFFE
    s.pc.toNat ≤ 0xFFE ∧ (0x6005 : Word) = wordOfBytes (s.mem.read s.pc.toNat) (s.mem.read (s.pc.toNat + 1)) ∧
    decodeWord 0x6005 = .ok (.ldByte 0 5) ∧ State.reset.pc.toNat ≤ 0xFFE ∧
    (0 : Word) = wordOfBytes (State.reset.mem.read 0x200) (State.reset.mem.read 0x201) ∧
    decodeWord 0 = .error (.unsupported 0) := by decide

theorem witness_LoadedInstructionRunsNext :
    let s := State.reset.setPc 0xFFE
    (Instr.drw 1 2 15).wellFormed = true ∧ s.pc.toNat ≤ 0xFFE ∧
    transact Config.Params.default (.load s.pc (encodeBytes (.drw 1 2 15))) s =
      (place s 0xFFE [0xD1, 0x2F], .accepted) := by decide

/-- Each of the four statuses occurs. -/
theorem witness_FaultsHaveTheirCauses :
    step (State.reset.setPc 0xFFF) = .fault .decodeError ∧
    step State.reset = .fault (.unsupportedInstruction 0) ∧
    step ((start [0x22, 0x08]).setSp 16) = .fault .stackOverflow ∧
    step (start [0x00, 0xEE]) = .fault .stackUnderflow :=
  ⟨fault_of_faultOf (by decide), fault_of_faultOf (by decide), fault_of_faultOf (by decide), fault_of_faultOf (by decide)⟩

/-- Each cause occurs, at the first value past the bound. -/
theorem witness_OutOfBoundsHasItsCauses :
    exec (.drw 1 2 1) (State.reset.setI 0x1000) = .fault (.outOfBounds .spriteRead) ∧
    exec (.ldRegs 1) (State.reset.setI 0xFFF) = .fault (.outOfBounds .load) ∧
    exec (.stRegs 1) (State.reset.setI 0xFFF) = .fault (.outOfBounds .store) ∧
    exec (.ldB 0) (State.reset.setI 0xFFE) = .fault (.outOfBounds .store) ∧
    exec (.stRegs 0) (State.reset.setI 0x1FF) = .fault (.outOfBounds .reservedStore) ∧
    exec (.ldB 0) (State.reset.setI 0x1FF) = .fault (.outOfBounds .reservedStore) ∧
    exec (.skp 5) (State.reset.writeV 5 0x10) = .fault (.outOfBounds .keyId) ∧
    exec (.sknp 5) (State.reset.writeV 5 0x10) = .fault (.outOfBounds .keyId) ∧
    exec (.ldF 4) (State.reset.writeV 4 0x10) = .fault (.outOfBounds .glyphDigit) :=
  ⟨fault_of_faultOf (by decide), fault_of_faultOf (by decide), fault_of_faultOf (by decide), fault_of_faultOf (by decide), fault_of_faultOf (by decide), fault_of_faultOf (by decide), fault_of_faultOf (by decide), fault_of_faultOf (by decide), fault_of_faultOf (by decide)⟩

/-- Each clause: a wait, the three fetch and decode errors where their bounds meet, a fault and a next state. -/
theorem witness_CycleThatIsNotOkChangesNothing :
    (cycle (start [0xF3, 0x0A])).2 = .waitingForInput ∧
    0x1000 ≤ (State.reset.setPc 0x1000).pc.toNat ∧ (State.reset.setPc 0xFFF).pc.toNat = 0xFFF ∧
    ((State.reset.setPc 0xFFE).pc.toNat ≤ 0xFFE ∧
      ∀ i, decodeWord ((State.reset.setPc 0xFFE).mem.readWord 0xFFE) ≠ .ok i) ∧
    step ((start [0x22, 0x08]).setSp 16) = .fault .stackOverflow ∧ ∃ t, step (start [0x00, 0xE0]) = .next t := by
  refine ⟨by decide, by decide, by decide, ⟨by decide, fun i h => ?_⟩, fault_of_faultOf (by decide),
    exists_of_isNext (by decide)⟩
  have hd : decodeWord ((State.reset.setPc 0xFFE).mem.readWord 0xFFE) = .error (.unsupported 0) := by decide
  exact absurd (hd.symm.trans h) (by simp)

/-- The jump to its own address. -/
theorem witness_JumpSetsPc : (0x200 : Addr12).toNat = State.reset.pc.toNat := by decide

theorem witness_CallPushesTheReturnAddress :
    (State.reset.setSp 16).sp.val = 16 ∧ (State.reset.setSp 15).sp.val < 16 ∧ State.reset.sp.val < 16 := by decide

theorem witness_ReturnPopsIntoPc :
    State.reset.sp.val = 0 ∧ (State.reset.setSp 1).sp.val = (0 : Fin 16).val + 1 ∧
    (State.reset.setSp 16).sp.val = (15 : Fin 16).val + 1 := by decide

/-- The call at 0x200 of a return at 0xFFE, with one stack entry free. -/
theorem witness_CallThenReturnComesBack :
    let s := (place (start [0x2F, 0xFE]) 0xFFE [0x00, 0xEE]).setSp 15
    s.pc.toNat ≤ 0xFFE ∧ s.sp.val < 16 ∧ decodeWord (s.mem.readWord s.pc.toNat) = .ok (.call 0xFFE) ∧
    (0xFFE : Addr12).toNat ≤ 0xFFE ∧ s.mem.readWord (0xFFE : Addr12).toNat = 0x00EE := by decide

theorem witness_RegisterSkips : (0xF : Nibble) ≠ 0 := by decide

/-- The last key id, and the first value that is none. -/
theorem witness_KeySkips :
    ((State.reset.writeV 5 0x0F).readV 5).toNat = (15 : Fin 16).val ∧
    0x0F < ((State.reset.writeV 5 0x10).readV 5).toNat := by decide

/-- For the frames of 7xkk, the logic, the flag setters and Cxkk: a destination that is not `VF`, a register that is
neither, and a mask with a clear bit. -/
theorem witness_AddByteWrapsWithoutFlag : (15 : RegIdx) ≠ 2 := by decide
theorem witness_LogicIsBitwiseWithoutFlag : (15 : RegIdx) ≠ 1 := by decide
theorem witness_AddSetsCarry : (1 : RegIdx) ≠ 15 ∧ (3 : RegIdx) ≠ 1 ∧ (3 : RegIdx) ≠ 15 := by decide
theorem witness_SubtractionsSetNotBorrow : (14 : RegIdx) ≠ 15 ∧ (0 : RegIdx) ≠ 14 ∧ (0 : RegIdx) ≠ 15 := by decide
theorem witness_ShiftsMoveOneBitIntoTheFlag : (0 : RegIdx) ≠ 15 ∧ (14 : RegIdx) ≠ 0 ∧ (14 : RegIdx) ≠ 15 := by decide
theorem witness_RandomByteIsMasked : (0x0F : Byte).getLsbD 4 = false ∧ (15 : RegIdx) ≠ 3 := by decide

theorem witness_AddressRegisterArithmetic :
    ((State.reset.writeV 4 0x0F).readV 4).toNat ≤ 0x0F ∧ 0x0F < ((State.reset.writeV 4 0x10).readV 4).toNat := by decide

/-- DR11 to DR13: no row at any address, the last range that fits and the first that does not. -/
theorem witness_DrawCompletesInBounds :
    ((0 : Nat) = 0 ∨ (State.reset.setI 0xFFFF).i.toNat + 0 - 1 ≤ 0xFFF) ∧
    (State.reset.setI 0xFFE).i.toNat + 2 - 1 ≤ 0xFFF ∧
    (1 ≤ 3 ∧ 0xFFF < (State.reset.setI 0xFFE).i.toNat + 3 - 1) ∧ (0 : RegIdx) ≠ 15 := by decide

theorem witness_DrawXorsTheClippedSprite :
    ∃ t, exec (.drw 15 1 15) ((State.reset.writeV 15 60).writeV 1 31) = .next t := exists_of_isNext (by decide)

theorem witness_DrawTwiceRestoresTheDisplay :
    (1 : RegIdx) ≠ 15 ∧ (2 : RegIdx) ≠ 15 ∧
    ∃ t u, exec (.drw 1 2 5) State.reset = .next t ∧ exec (.drw 1 2 5) t = .next u := by
  obtain ⟨t, ht⟩ := exists_of_isNext (r := exec (.drw 1 2 5) State.reset) (by decide)
  have hi : (cycle ((start [0xD1, 0x25]))).2 = .ok := by decide
  refine ⟨by decide, by decide, t, ?_⟩
  have hb : inBounds t.i.toNat 5 := by
    have : t.i = 0 := by
      simp only [exec, execDrw, commit] at ht
      rw [if_pos (by decide)] at ht
      injection ht with ht
      subst ht
      rfl
    rw [this]; decide
  exact ⟨_, ht, by simp only [exec, execDrw]; rw [if_pos hb]; rfl⟩

/-- No key, and the keys 3 and 9, of which 3 is the smallest. -/
theorem witness_KeyWaitStoresTheSmallestKey :
    (∀ k : Fin 16, State.reset.keys[k] = false) ∧
    (keyWrite 9 true (keyWrite 3 true State.reset)).keys[(3 : Fin 16)] = true ∧
    ∀ j : Fin 16, j < 3 → (keyWrite 9 true (keyWrite 3 true State.reset)).keys[j] = false := by decide

theorem witness_KeyWaitEndsAfterKeyWrite :
    let s := start [0xF3, 0x0A]
    s.pc.toNat ≤ 0xFFE ∧ decodeWord (s.mem.readWord s.pc.toNat) = .ok (.ldVxK 3) ∧
    (∀ j : Fin 16, s.keys[j] = false) ∧ (20 : Word) ≠ 0 := by decide

/-- Both ends of the range that may be stored to, and the addresses just outside. -/
theorem witness_DecimalDigitsAreStored :
    (0x200 ≤ (State.reset.setI 0x200).i.toNat ∧ (State.reset.setI 0x200).i.toNat ≤ 0xFFD) ∧
    (0x200 ≤ (State.reset.setI 0xFFD).i.toNat ∧ (State.reset.setI 0xFFD).i.toNat ≤ 0xFFD) ∧
    (State.reset.setI 0x1FF).i.toNat < 0x200 ∧ 0xFFD < (State.reset.setI 0xFFE).i.toNat ∧
    ¬ inRange 0xFFD 3 0xFFC := by
  refine ⟨by decide, by decide, by decide, by decide, by unfold inRange; omega⟩

theorem witness_RegistersAreStored :
    (0x200 ≤ (State.reset.setI 0x200).i.toNat ∧ (State.reset.setI 0x200).i.toNat + (15 : RegIdx).val ≤ 0xFFF) ∧
    (0x200 ≤ (State.reset.setI 0xFF0).i.toNat ∧ (State.reset.setI 0xFF0).i.toNat + (15 : RegIdx).val ≤ 0xFFF) ∧
    (State.reset.setI 0x1FF).i.toNat < 0x200 ∧ 0xFFF < (State.reset.setI 0xFF1).i.toNat + (15 : RegIdx).val ∧
    (15 : RegIdx) ≤ 15 ∧ ¬ inRange 0xFF0 16 0xFEF := by
  refine ⟨by decide, by decide, by decide, by decide, by decide, by unfold inRange; omega⟩

theorem witness_RegistersAreLoaded :
    (State.reset.setI 0xFFF).i.toNat + (0 : RegIdx).val ≤ 0xFFF ∧
    0xFFF < (State.reset.setI 0xFFF).i.toNat + (1 : RegIdx).val := by decide

/-- Program P5 before its fourth step. -/
theorem witness_StoredBytesAreFetchedNext :
    let s := (((start []).setPc 0x206).setI 0x208).writeV 0 0x62 |>.writeV 1 0x2A
    1 ≤ (1 : RegIdx).val ∧ s.pc.toNat ≤ 0xFFC ∧ s.i.toNat = s.pc.toNat + 2 ∧ ∃ t, exec (.stRegs 1) s = .next t :=
  ⟨by decide, by decide, by decide, exists_of_isNext (by decide)⟩

theorem witness_ReservedRangeIsNeverWritten :
    Transaction.step ≠ .reset ∧ (∀ a bs, Transaction.step ≠ .load a bs) ∧ (∀ p, Transaction.step ≠ .restore p) ∧
    0x1FF < 0x200 := by simp

/-- A step of each kind of next `PC`: a jump, a return, a skip, a hold and a plain advance; and a fault. -/
theorem witness_PcAfterEachCycle :
    isNext (step (start [0x12, 0x04])) = true ∧ decodeWord ((start [0x12, 0x04]).mem.readWord 0x200) = .ok (.jp 0x204) ∧
    isNext (step ((start [0x00, 0xEE]).setSp 1)) = true ∧ ((start [0x00, 0xEE]).setSp 1).sp.val = (0 : Fin 16).val + 1 ∧
    isNext (step (start [0xE5, 0x9E])) = true ∧ ((start [0xE5, 0x9E]).readV 5).toNat = (0 : Fin 16).val ∧
    isNext (step (start [0xF3, 0x0A])) = true ∧ isNext (step (start [0x00, 0xE0])) = true ∧
    faultOf (step State.reset) = some (.unsupportedInstruction 0) := by decide

theorem witness_RegistersAreWrittenOnlyAsListed :
    (∃ t, exec (.addReg 1 2) State.reset = .next t) ∧ ¬ mayWriteReg (.addReg 1 2) 2 :=
  ⟨exists_of_isNext (by decide), by unfold mayWriteReg; decide⟩

/-- One instruction for each element that a clause is about, which changes it. -/
theorem witness_OtherStateIsWrittenOnlyAsListed :
    gives (start [0xA1, 0x43]) .ok (fun t => t.i == 0x143) = true ∧
    gives (start [0x22, 0x08]) .ok (fun t => t.stack[0] == 0x202 && t.sp == 1) = true ∧
    gives ((start [0x00, 0xEE]).setSp 16) .ok (fun t => t.sp == 15) = true ∧
    gives (start [0xD1, 0x21]) .ok (fun t => allOn t [(0, 0)]) = true ∧
    gives ((start [0xF4, 0x15]).writeV 4 1) .ok (fun t => t.dt != 0) = true ∧
    gives ((start [0xF4, 0x18]).writeV 4 1) .ok (fun t => t.st != 0) = true ∧
    gives (((start [0xF0, 0x55]).writeV 0 1).setI 0x400) .ok (fun t => t.mem.read 0x400 != 0) = true :=
  ⟨by decide, by decide, by decide, by decide, by decide, by decide, by decide⟩

theorem witness_SelfJumpRunsForEver :
    let s := start [0x12, 0x00]
    s.pc.toNat ≤ 0xFFE ∧ (0x200 : Addr12).toNat = s.pc.toNat ∧
    decodeWord (s.mem.readWord s.pc.toNat) = .ok (.jp 0x200) := by decide

/-- A state at the bounds of the invariant, and a step from it. -/
theorem witness_StepKeepsTheInvariant :
    let s := (((start [0x00, 0xEE]).setSp 16).setStack (Vector.replicate 16 0x1000))
    StateInv s ∧ ∃ t, step s = .next t :=
  ⟨by unfold StateInv; decide, exists_of_isNext (by decide)⟩

theorem witness_TransactionsKeepTheInvariant :
    Config.Params.default.valid ∧ (∀ p, Transaction.reset ≠ .restore p) ∧ StateInv State.reset :=
  ⟨by decide, by simp, by unfold StateInv; decide⟩

/-- Bytes that end exactly at the top of memory, and one byte more; no bytes at 0x1000, and one address above it (log 23). -/
theorem witness_LoadCopiesOrRefuses :
    (0xFFF : Word).toNat + [(1 : Byte)].length ≤ 0x1000 ∧ 0x1000 < (0xFFF : Word).toNat + [(1 : Byte), 2].length ∧
    (0x1000 : Word).toNat + ([] : List Byte).length ≤ 0x1000 ∧ 0x1000 < (0x1001 : Word).toNat + ([] : List Byte).length ∧
    0 < [(1 : Byte)].length ∧ ¬ inRange 0xFFF 1 0xFFE := by
  refine ⟨by decide, by decide, by decide, by decide, by decide, by unfold inRange; omega⟩

theorem witness_StepNRunsExactlyNCycles : (1 : Word) ≠ 0 ∧ 0 < (1 : Word).toNat := by decide

theorem witness_RestoreBringsTheSnapshotBack :
    (start [0x61, 0x0A]).mem.wf ∧ 16 < ({ snapshot State.reset with sp := 17 } : Snapshot).sp.toNat := by decide

theorem witness_ResetSetsEveryElement : (80 : Nat) ≤ 80 := by decide

end Sys2Proof.Tests
end

section
/-! The status of a cycle (60_exceptions.md R149 to R155, R159): what `step` answers where the fetch or the decode
fails, when a cycle holds, and what `cycle` makes of each answer. -/

namespace Sys2Proof.Machine

/-! ### The fetch and decode errors of a step (40_step_cycle.md R68, R69) -/

theorem step_of_pc_outside {s : State} (h : 0x1000 ≤ s.pc.toNat) : step s = .fault (.outOfBounds .fetch) := by
  have hf : fetchWord s = .error (.outOfBounds .fetch) := if_pos h
  simp [step, hf, raise]

theorem step_of_pc_last {s : State} (h : s.pc.toNat = 0xFFF) : step s = .fault .decodeError := by
  have hf : fetchWord s = .error .decodeError := by simp [fetchWord, h]
  simp [step, hf, raise]

theorem step_of_undecoded {s : State} (hp : s.pc.toNat ≤ 0xFFE)
    (hd : ∀ i, decodeWord (s.mem.readWord s.pc.toNat) ≠ .ok i) :
    step s = .fault (.unsupportedInstruction (s.mem.readWord s.pc.toNat)) := by
  have hf := (fetchWord_eq_ok s _).mpr ⟨hp, rfl⟩
  cases hr : decodeWord (s.mem.readWord s.pc.toNat) with
  | error r => simp [step, hf, hr, raise]
  | ok i => exact absurd hr (hd i)

/-! ### The hold of a waiting Fx0A (46_keys_timers.md R122) -/

/-- A cycle holds exactly when Fx0A is fetched and no key is pressed. -/
theorem holds_iff (s : State) :
    holds s = true ↔ s.pc.toNat ≤ 0xFFE ∧ (∀ k : Fin 16, s.keys[k] = false) ∧
      ∃ x, decodeWord (s.mem.readWord s.pc.toNat) = .ok (.ldVxK x) := by
  constructor
  · intro h
    unfold holds at h
    split at h
    · cases h
    · next w hf =>
      obtain ⟨hp, rfl⟩ := (fetchWord_eq_ok s w).mp hf
      split at h
      · next x hd => exact ⟨hp, (lowestKey_eq_none _).mp (Option.isNone_iff_eq_none.mp h), x, hd⟩
      · cases h
  · rintro ⟨hp, hkeys, x, hd⟩
    have hf := (fetchWord_eq_ok s _).mpr ⟨hp, rfl⟩
    have hk := (lowestKey_eq_none s.keys).mpr hkeys
    simp [holds, hf, hd, hk]

theorem step_of_holds {s : State} (h : holds s = true) : step s = .next s := by
  obtain ⟨hp, hkeys, x, hd⟩ := (holds_iff s).mp h
  have hk := (lowestKey_eq_none s.keys).mpr hkeys
  have hx : exec (.ldVxK x) s = .next s := by simp [exec, execLdVxK, hk, commit_hold]
  exact (step_eq_next s s).mpr ⟨.ldVxK x, hp, hd, hx⟩

/-! ### A cycle by the answer of its step (40_step_cycle.md R76) -/

theorem cycle_of_next {s t : State} (h : step s = .next t) :
    cycle s = (t, if holds s then .waitingForInput else .ok) := by
  simp [cycle, h]

theorem cycle_of_fault {s : State} {f : Fault} (h : step s = .fault f) : cycle s = (s, f.status) := by
  simp [cycle, h]

theorem cycle_of_refused {s : State} {r : Refusal} (h : step s = .refused r) :
    cycle s = (s, .unsupportedInstruction) := by
  simp [cycle, h]

theorem Fault.status_ne_waitingForInput (f : Fault) : f.status ≠ .waitingForInput := by
  cases f <;> nofun

theorem cycle_waiting_iff_holds (s : State) : (cycle s).2 = .waitingForInput ↔ holds s = true := by
  by_cases hh : holds s = true
  · simp [cycle_of_next (step_of_holds hh), hh]
  · cases h : step s with
    | next t => simp [cycle_of_next h, hh]
    | fault f => simp [cycle_of_fault h, f.status_ne_waitingForInput, hh]
    | refused r => simp [cycle_of_refused h, hh]

/-- A wait answers the state it was given (log entry 5), and a raised status leaves it as it was (D10). -/
theorem cycle_state_of_status_ne_ok {s : State} (h : (cycle s).2 ≠ .ok) : (cycle s).1 = s := by
  by_cases hh : holds s = true
  · rw [cycle_of_next (step_of_holds hh)]
  · cases hs : step s with
    | next t => simp [cycle_of_next hs, hh] at h
    | fault f => rw [cycle_of_fault hs]
    | refused r => rw [cycle_of_refused hs]

/-- Settles O12: each clause by the answer of `step` that it speaks of. -/
theorem cycleThatIsNotOkChangesNothing : Obligations.CycleThatIsNotOkChangesNothing := by
  intro s
  refine ⟨fun h => ?_, (cycle_waiting_iff_holds s).trans (holds_iff s),
    fun h => cycle_of_fault (step_of_pc_outside h), fun h => cycle_of_fault (step_of_pc_last h),
    fun hp hd => cycle_of_fault (step_of_undecoded hp hd),
    fun f hf => ?_, fun t ht => ?_, fun c => rfl⟩
  · have hs := cycle_state_of_status_ne_ok h
    exact ⟨hs, by rw [hs]⟩
  · rw [cycle_of_fault hf]
    cases f <;> rfl
  · rw [cycle_of_next ht]
    cases holds s <;> simp

end Sys2Proof.Machine
end

section
/-! What an instruction that answers a next state does (10_state.md R15, R18, R20, R22 to R27): the `PC` it leaves
behind, `pcAfter`, and its other writes, `Writes`. `exec_eq_next_imp` ties both to `exec`; the statements about `PC`,
the frames and the invariant are read off them. -/

namespace Sys2Proof.Machine

/-! ### The meanings that test before they commit -/

theorem execRet_eq_next (s t : State) :
    execRet s = .next t ↔ ∃ j : Fin 16, s.sp.val = j.val + 1 ∧ t = (s.setSp j.castSucc).setPc s.stack[j] := by
  unfold execRet
  split
  · next h => simp [h]
  · next h =>
    simp only [commit_eq_next, State.setSp_pc, NextPc.apply_goto]
    constructor
    · rintro rfl
      exact ⟨⟨s.sp.val - 1, by omega⟩, by simp only; omega, rfl⟩
    · rintro ⟨⟨j, hj⟩, hsp, rfl⟩
      have hj' : s.sp.val - 1 = j := by simp only at hsp; omega
      subst hj'
      rfl

theorem execCall_eq_next (nnn : Addr12) (s t : State) :
    execCall nnn s = .next t ↔ ∃ j : Fin 16, s.sp.val = j.val ∧
      t = ((s.setStack (s.stack.set j (s.pc + 2))).setSp j.succ).setPc (zextAddr nnn) := by
  unfold execCall
  split
  · next h => simp [h]; omega
  · next h =>
    simp only [commit_eq_next, NextPc.apply_goto]
    constructor
    · rintro rfl
      exact ⟨⟨s.sp.val, by omega⟩, rfl, rfl⟩
    · rintro ⟨⟨j, hj⟩, hsp, rfl⟩
      simp only at hsp
      subst hsp
      rfl

theorem execSkp_eq_next (x : RegIdx) (s t : State) :
    execSkp x s = .next t ↔
      ∃ k : Fin 16, (s.readV x).toNat = k.val ∧ t = s.setPc (if s.keys[k] then s.pc + 4 else s.pc + 2) := by
  unfold execSkp
  simp only [← sixteenIndex_eq_some]
  split <;> simp [*]

theorem execSknp_eq_next (x : RegIdx) (s t : State) :
    execSknp x s = .next t ↔
      ∃ k : Fin 16, (s.readV x).toNat = k.val ∧ t = s.setPc (if !s.keys[k] then s.pc + 4 else s.pc + 2) := by
  unfold execSknp
  simp only [← sixteenIndex_eq_some]
  split <;> simp [*]

theorem execLdVxK_eq_next (x : RegIdx) (s t : State) :
    execLdVxK x s = .next t ↔ (lowestKey s.keys = none ∧ t = s) ∨
      ∃ k, lowestKey s.keys = some k ∧ t = (s.writeV x (BitVec.ofNat 8 k.val)).setPc (s.pc + 2) := by
  unfold execLdVxK
  split <;> simp [*]

theorem execLdF_eq_next (x : RegIdx) (s t : State) :
    execLdF x s = .next t ↔
      ∃ d : Fin 16, (s.readV x).toNat = d.val ∧ t = (s.setI (glyphAddr d)).setPc (s.pc + 2) := by
  unfold execLdF
  simp only [← sixteenIndex_eq_some]
  split <;> simp [*]

theorem execLdRegs_eq_next (x : RegIdx) (s t : State) :
    execLdRegs x s = .next t ↔ inBounds s.i.toNat (x.val + 1) ∧
      t = (s.setVs (loadedRegs s s.i.toNat x)).setPc (s.pc + 2) := by
  unfold execLdRegs
  split <;> simp [*]

/-- A draw that answers tested all its rows; what it writes is the flag and the grid. -/
theorem execDrw_eq_next_imp {x y : RegIdx} {n : Nat} {s t : State} (h : execDrw x y n s = .next t) :
    inBounds s.i.toNat n ∧ ∃ f d, t = ((s.writeV flagIdx f).setDisp d).setPc (s.pc + 2) := by
  unfold execDrw at h
  split at h
  · next hb => exact ⟨hb, _, _, (commit_eq_next ..).mp h⟩
  · cases h

/-! ### The next `PC` (10_state.md R20) -/

/-- The `PC` an instruction leaves behind when it answers a next state. -/
def pcAfter (s : State) : Instr → Word
  | .jp nnn | .call nnn => zextAddr nnn
  | .ret => s.stack[(⟨s.sp.val - 1, by omega⟩ : Fin 16)]
  | .jpV0 nnn => zextAddr nnn + zextByte (s.readV 0)
  | .seByte x kk => if s.readV x == kk then s.pc + 4 else s.pc + 2
  | .sneByte x kk => if s.readV x != kk then s.pc + 4 else s.pc + 2
  | .seReg x y => if s.readV x == s.readV y then s.pc + 4 else s.pc + 2
  | .sneReg x y => if s.readV x != s.readV y then s.pc + 4 else s.pc + 2
  | .skp x => if (sixteenIndex (s.readV x)).any (s.keys[·]) then s.pc + 4 else s.pc + 2
  | .sknp x => if (sixteenIndex (s.readV x)).any (!s.keys[·]) then s.pc + 4 else s.pc + 2
  | .ldVxK _ => if (lowestKey s.keys).isNone then s.pc else s.pc + 2
  | _ => s.pc + 2

theorem pcAfter_ret {s : State} {j : Fin 16} (hj : s.sp.val = j.val + 1) : pcAfter s .ret = s.stack[j] := by
  have htop : (⟨s.sp.val - 1, by omega⟩ : Fin 16) = j := Fin.ext (by simp only; omega)
  exact congrArg (s.stack[·]) htop

theorem pcAfter_skp {s : State} {x : RegIdx} {k : Fin 16} (hk : (s.readV x).toNat = k.val) :
    pcAfter s (.skp x) = if s.keys[k] then s.pc + 4 else s.pc + 2 := by
  change (if (sixteenIndex (s.readV x)).any (s.keys[·]) then _ else _) = _
  rw [(sixteenIndex_eq_some ..).mpr hk, Option.any_some]

theorem pcAfter_sknp {s : State} {x : RegIdx} {k : Fin 16} (hk : (s.readV x).toNat = k.val) :
    pcAfter s (.sknp x) = if !s.keys[k] then s.pc + 4 else s.pc + 2 := by
  change (if (sixteenIndex (s.readV x)).any (!s.keys[·]) then _ else _) = _
  rw [(sixteenIndex_eq_some ..).mpr hk, Option.any_some]

theorem pcAfter_ldVxK (s : State) (x : RegIdx) :
    pcAfter s (.ldVxK x) = if lowestKey s.keys = none then s.pc else s.pc + 2 := by
  change (if (lowestKey s.keys).isNone then _ else _) = _
  simp only [Option.isNone_iff_eq_none]

/-! ### The other writes (10_state.md R15, R18, R22 to R27) -/

/-- The instructions that may answer with no write but that of `PC`. -/
def mayWriteNothing : Instr → Prop
  | .jp _ | .jpV0 _ | .seByte _ _ | .sneByte _ _ | .seReg _ _ | .sneReg _ _ | .skp _ | .sknp _ | .ldVxK _ => True
  | _ => False

/-- The writes of an instruction that answers a next state, all but that of `PC`: one case for each kind of write. -/
inductive Writes (s : State) : Instr → State → Prop
  | nothing {i} (hi : mayWriteNothing i) : Writes s i s
  | result {i x} (b) (hx : mayWriteReg i x) : Writes s i (s.writeV x b)
  | flagged {i x} (f b) (hx : mayWriteReg i x) (hf : mayWriteReg i flagIdx) : Writes s i (s.writeFlagThenResult x f b)
  | random (x kk b) : Writes s (.rnd x kk) ((s.setDraws (s.draws + 1)).writeV x b)
  | sprite (x y n f d) : Writes s (.drw x y n) ((s.writeV flagIdx f).setDisp d)
  | blank : Writes s .cls (s.setDisp Display.blank)
  | loaded (x) : Writes s (.ldRegs x) (s.setVs (loadedRegs s s.i.toNat x))
  | index {i} (w) (hi : (∃ nnn, i = .ldI nnn) ∨ (∃ x, i = .addI x) ∨ ∃ x, i = .ldF x) : Writes s i (s.setI w)
  | delay (x b) : Writes s (.ldDtVx x) (s.setDt b)
  | sound (x b) : Writes s (.ldStVx x) (s.setSt b)
  | stored {i bs} (hi : (∃ x, i = .ldB x) ∨ ∃ x, i = .stRegs x) (hb : s.i.toNat + bs.length ≤ 0x1000) :
      Writes s i (s.setMem (s.mem.writeBytes s.i.toNat bs))
  | pushed (nnn) (j : Fin 16) (hj : s.sp.val = j.val) :
      Writes s (.call nnn) ((s.setStack (s.stack.set j (s.pc + 2))).setSp j.succ)
  | popped (j : Fin 16) (hj : s.sp.val = j.val + 1) : Writes s .ret (s.setSp j.castSucc)

theorem Writes.of_storeAtI {i : Instr} {bs : List Byte} {s t : State}
    (hi : (∃ x, i = .ldB x) ∨ ∃ x, i = .stRegs x) (hbs : 0 < bs.length) (h : storeAtI bs s = .next t) :
    ∃ u, Writes s i u ∧ t = u.setPc (s.pc + 2) := by
  obtain ⟨-, hb, rfl⟩ := (storeAtI_eq_next ..).mp h
  exact ⟨_, .stored hi (by omega), rfl⟩

/-- What an instruction that answers does: its writes, and then its `PC`. -/
theorem exec_eq_next_imp {i : Instr} {s t : State} (h : exec i s = .next t) :
    ∃ u, Writes s i u ∧ t = u.setPc (pcAfter s i) := by
  cases i with
  | cls => exact ⟨_, .blank, (commit_eq_next ..).mp h⟩
  | ret =>
    obtain ⟨j, hj, rfl⟩ := (execRet_eq_next ..).mp h
    exact ⟨_, .popped j hj, by rw [pcAfter_ret hj]⟩
  | jp nnn => exact ⟨_, .nothing trivial, (commit_eq_next ..).mp h⟩
  | call nnn =>
    obtain ⟨j, hj, rfl⟩ := (execCall_eq_next ..).mp h
    exact ⟨_, .pushed nnn j hj, rfl⟩
  | seByte x kk => exact ⟨_, .nothing trivial, (skipWhen_eq_next ..).mp h⟩
  | sneByte x kk => exact ⟨_, .nothing trivial, (skipWhen_eq_next ..).mp h⟩
  | seReg x y => exact ⟨_, .nothing trivial, (skipWhen_eq_next ..).mp h⟩
  | ldByte x kk => exact ⟨_, .result _ rfl, (writeResult_eq_next ..).mp h⟩
  | addByte x kk => exact ⟨_, .result _ rfl, (writeResult_eq_next ..).mp h⟩
  | ldReg x y => exact ⟨_, .result _ rfl, (writeResult_eq_next ..).mp h⟩
  | orReg x y => exact ⟨_, .result _ rfl, (writeResult_eq_next ..).mp h⟩
  | andReg x y => exact ⟨_, .result _ rfl, (writeResult_eq_next ..).mp h⟩
  | xorReg x y => exact ⟨_, .result _ rfl, (writeResult_eq_next ..).mp h⟩
  | addReg x y => exact ⟨_, .flagged _ _ (.inl rfl) (.inr rfl), (writeFlagged_eq_next ..).mp h⟩
  | subReg x y => exact ⟨_, .flagged _ _ (.inl rfl) (.inr rfl), (writeFlagged_eq_next ..).mp h⟩
  | shr x y => exact ⟨_, .flagged _ _ (.inl rfl) (.inr rfl), (writeFlagged_eq_next ..).mp h⟩
  | subnReg x y => exact ⟨_, .flagged _ _ (.inl rfl) (.inr rfl), (writeFlagged_eq_next ..).mp h⟩
  | shl x y => exact ⟨_, .flagged _ _ (.inl rfl) (.inr rfl), (writeFlagged_eq_next ..).mp h⟩
  | sneReg x y => exact ⟨_, .nothing trivial, (skipWhen_eq_next ..).mp h⟩
  | ldI nnn => exact ⟨_, .index _ (.inl ⟨nnn, rfl⟩), (commit_eq_next ..).mp h⟩
  | jpV0 nnn => exact ⟨_, .nothing trivial, (commit_eq_next ..).mp h⟩
  | rnd x kk => exact ⟨_, .random x kk _, (writeResult_eq_next _ _ (s.setDraws (s.draws + 1)) t).mp h⟩
  | drw x y n =>
    obtain ⟨-, f, d, rfl⟩ := execDrw_eq_next_imp h
    exact ⟨_, .sprite x y n f d, rfl⟩
  | skp x =>
    obtain ⟨k, hk, rfl⟩ := (execSkp_eq_next ..).mp h
    exact ⟨_, .nothing trivial, by rw [pcAfter_skp hk]⟩
  | sknp x =>
    obtain ⟨k, hk, rfl⟩ := (execSknp_eq_next ..).mp h
    exact ⟨_, .nothing trivial, by rw [pcAfter_sknp hk]⟩
  | ldVxDt x => exact ⟨_, .result _ rfl, (commit_eq_next ..).mp h⟩
  | ldVxK x =>
    rcases (execLdVxK_eq_next ..).mp h with ⟨hk, rfl⟩ | ⟨k, hk, rfl⟩
    · exact ⟨_, .nothing trivial, by simp [pcAfter_ldVxK, hk]⟩
    · exact ⟨_, .result (BitVec.ofNat 8 k.val) rfl, by simp [pcAfter_ldVxK, hk]⟩
  | ldDtVx x => exact ⟨_, .delay x _, (commit_eq_next ..).mp h⟩
  | ldStVx x => exact ⟨_, .sound x _, (commit_eq_next ..).mp h⟩
  | addI x => exact ⟨_, .index _ (.inr (.inl ⟨x, rfl⟩)), (commit_eq_next ..).mp h⟩
  | ldF x =>
    obtain ⟨d, -, rfl⟩ := (execLdF_eq_next ..).mp h
    exact ⟨_, .index _ (.inr (.inr ⟨x, rfl⟩)), rfl⟩
  | ldB x => exact Writes.of_storeAtI (.inl ⟨x, rfl⟩) (by simp) h
  | stRegs x => exact Writes.of_storeAtI (.inr ⟨x, rfl⟩) (by simp) h
  | ldRegs x =>
    obtain ⟨-, rfl⟩ := (execLdRegs_eq_next ..).mp h
    exact ⟨_, .loaded x, rfl⟩

end Sys2Proof.Machine
end

section
/-! The frames of 10_state.md R15, R16, R18 and R22 to R27 (O43, O44), read off the kinds of write. -/

namespace Sys2Proof.Machine

/-- A register outside the write row keeps its value, whatever the kind of write. -/
theorem Writes.readV {i : Instr} {s u : State} (h : Writes s i u) {r : RegIdx} (hr : ¬ mayWriteReg i r) :
    u.readV r = s.readV r := by
  cases h with
  | nothing hi => rfl
  | result b hx =>
    have hne : r ≠ _ := fun e => hr (e ▸ hx)
    simp [hne]
  | flagged f b hx hf =>
    have hne : r ≠ _ := fun e => hr (e ▸ hx)
    have hne' : r ≠ flagIdx := fun e => hr (e ▸ hf)
    simp [hne, hne']
  | random x kk b =>
    have hne : r ≠ x := hr
    simp [hne]
  | sprite x y n f d =>
    have hne : r ≠ flagIdx := hr
    simp [hne]
  | loaded x =>
    have hlt : ¬ r ≤ x := hr
    simp [hlt]
  | blank | index | delay | sound | stored | pushed | popped => rfl

/-- Settles O43, by the kinds of write. -/
theorem registersAreWrittenOnlyAsListed : Obligations.RegistersAreWrittenOnlyAsListed := by
  intro i s t h r hr
  obtain ⟨u, hw, rfl⟩ := exec_eq_next_imp h
  exact hw.readV hr

/-- Settles O44: each kind of write leaves every element alone but its own. -/
theorem otherStateIsWrittenOnlyAsListed : Obligations.OtherStateIsWrittenOnlyAsListed := by
  intro i s t h
  obtain ⟨u, hw, rfl⟩ := exec_eq_next_imp h
  cases hw with
  | nothing | result | flagged | random | sprite | blank | loaded | delay | sound => simp [sameMem]
  | index w hi => simp [sameMem, hi]
  | stored hi hb => simp [hi]
  | pushed nnn j hj => simp [sameMem, hj]
  | popped j hj => simp [sameMem, hj]

end Sys2Proof.Machine
end

section
/-! `PC` after each cycle as a number (10_state.md R20; O42). -/

namespace Sys2Proof.Machine

@[simp] theorem zextAddr_toNat (nnn : Addr12) : (zextAddr nnn).toNat = nnn.toNat :=
  BitVec.toNat_setWidth_of_le (by decide)

@[simp] theorem zextByte_toNat (b : Byte) : (zextByte b).toNat = b.toNat :=
  BitVec.toNat_setWidth_of_le (by decide)

/-- D11: the target of Bnnn is not reduced. -/
theorem indexed_target_toNat (nnn : Addr12) (b : Byte) : (zextAddr nnn + zextByte b).toNat = nnn.toNat + b.toNat := by
  have hn := nnn.isLt
  have hb := b.isLt
  rw [BitVec.toNat_add_of_lt (by simp only [zextAddr_toNat, zextByte_toNat]; omega), zextAddr_toNat, zextByte_toNat]

theorem toNat_add_two {pc : Word} (hp : pc.toNat ≤ 0xFFE) : (pc + 2).toNat = pc.toNat + 2 := by
  bv_omega

theorem toNat_add_four {pc : Word} (hp : pc.toNat ≤ 0xFFE) : (pc + 4).toNat = pc.toNat + 4 := by
  bv_omega

/-- The advance of a skip, as a number. -/
theorem toNat_skip {pc : Word} (hp : pc.toNat ≤ 0xFFE) (c : Bool) :
    (if c then pc + 4 else pc + 2).toNat = if c then pc.toNat + 4 else pc.toNat + 2 := by
  split
  · exact toNat_add_four hp
  · exact toNat_add_two hp

theorem pc_of_exec {i : Instr} {s t : State} (h : exec i s = .next t) : t.pc = pcAfter s i := by
  obtain ⟨u, -, rfl⟩ := exec_eq_next_imp h
  rfl

/-- Settles O42: a fault leaves the state alone; a next state has `PC = pcAfter`, which for each instruction is the
number listed. -/
theorem pcAfterEachCycle : Obligations.PcAfterEachCycle := by
  intro s
  refine ⟨fun f hf => by rw [cycle_of_fault hf], fun i t hp hd ht => ?_⟩
  obtain ⟨i', -, hd', hx⟩ := (step_eq_next s t).mp ht
  obtain rfl : i = i' := Except.ok.inj (hd.symm.trans hd')
  have hpc := pc_of_exec hx
  cases i with
  | jp nnn => exact (congrArg BitVec.toNat hpc).trans (zextAddr_toNat nnn)
  | call nnn =>
    obtain ⟨k, hk, rfl⟩ := (execCall_eq_next ..).mp hx
    refine ⟨zextAddr_toNat nnn, fun j hj => ?_⟩
    obtain rfl : j = k := Fin.ext (hj.trans hk)
    simp
  | ret => exact fun j hj => hpc.trans (pcAfter_ret hj)
  | jpV0 nnn => exact (congrArg BitVec.toNat hpc).trans (indexed_target_toNat nnn (s.readV 0))
  | seByte x kk => simpa using (congrArg BitVec.toNat hpc).trans (toNat_skip hp (s.readV x == kk))
  | sneByte x kk => simpa using (congrArg BitVec.toNat hpc).trans (toNat_skip hp (s.readV x != kk))
  | seReg x y => simpa using (congrArg BitVec.toNat hpc).trans (toNat_skip hp (s.readV x == s.readV y))
  | sneReg x y => simpa using (congrArg BitVec.toNat hpc).trans (toNat_skip hp (s.readV x != s.readV y))
  | skp x =>
    intro k hk
    rw [hpc, pcAfter_skp hk, toNat_skip hp]
  | sknp x =>
    intro k hk
    rw [hpc, pcAfter_sknp hk, toNat_skip hp]
    simp only [Bool.not_eq_true']
  | ldVxK x =>
    refine ⟨?_, fun hk => (cycle_waiting_iff_holds s).mpr ((holds_iff s).mpr ⟨hp, hk, x, hd⟩)⟩
    simp only [hpc, pcAfter_ldVxK, lowestKey_eq_none]
    split
    · rfl
    · exact toNat_add_two hp
  | _ => exact (congrArg BitVec.toNat hpc).trans (toNat_add_two hp)

end Sys2Proof.Machine
end

section
/-! The invariant of 10_state.md R34 and R35 (O46, O47, O48): it holds at reset, every write and every next `PC` keeps
it, and so does every transaction but RESTORE. -/

namespace Sys2Proof.Machine

theorem State.reset_stack_zero (j : Fin 16) : State.reset.stack[j] = 0 := by
  simp [State.reset]

/-- Settles O46: nothing is listed in memory, `PC` is 0x200 and the stack holds zeros. -/
theorem invariantHoldsAtReset : Obligations.InvariantHoldsAtReset :=
  ⟨Memory.wf_nil, by decide, fun j => by rw [State.reset_stack_zero j]; decide⟩

/-! ### A step -/

/-- Only a store touches memory, and its whole range lies in memory. -/
theorem Writes.mem_wf {i : Instr} {s u : State} (h : Writes s i u) (hm : s.mem.wf) : u.mem.wf := by
  cases h with
  | stored hi hb => exact Memory.wf_writeBytes hm _ _ hb
  | _ => simpa using hm

/-- Only a call writes the stack, and it was fetched at `PC <= 0xFFE`, so it pushes at most 0x1000. -/
theorem Writes.stack_le {i : Instr} {s u : State} (h : Writes s i u) (hp : s.pc.toNat ≤ 0xFFE)
    (hk : ∀ j : Fin 16, s.stack[j].toNat ≤ 0x1000) (j : Fin 16) : u.stack[j].toNat ≤ 0x1000 := by
  cases h with
  | pushed nnn k hsp =>
    have hget : (s.stack.set k (s.pc + 2))[j] = if k.val = j.val then s.pc + 2 else s.stack[j] :=
      Vector.getElem_set ..
    change (s.stack.set k (s.pc + 2))[j].toNat ≤ 0x1000
    rw [hget]
    split
    · rw [toNat_add_two hp]
      omega
    · exact hk j
  | _ => simpa using hk j

/-- The bound 0x10FE is that of Bnnn, 0xFFF + 0xFF; every other next `PC` is at most 0x1002. -/
theorem pcAfter_le {s : State} (hp : s.pc.toNat ≤ 0xFFE) (hk : ∀ j : Fin 16, s.stack[j].toNat ≤ 0x1000)
    (i : Instr) : (pcAfter s i).toNat ≤ 0x10FE := by
  have haddr (nnn : Addr12) : (zextAddr nnn).toNat ≤ 0x10FE := by
    rw [zextAddr_toNat]
    omega
  have hnext : (s.pc + 2).toNat ≤ 0x10FE := by
    rw [toNat_add_two hp]
    omega
  have hskip (c : Bool) : (if c then s.pc + 4 else s.pc + 2).toNat ≤ 0x10FE := by
    rw [toNat_skip hp]
    split <;> omega
  cases i with
  | jp nnn => exact haddr nnn
  | call nnn => exact haddr nnn
  | ret => exact (hk _).trans (by decide)
  | jpV0 nnn =>
    change (zextAddr nnn + zextByte (s.readV 0)).toNat ≤ _
    rw [indexed_target_toNat]
    omega
  | seByte | sneByte | seReg | sneReg | skp | sknp => exact hskip _
  | ldVxK x =>
    rw [pcAfter_ldVxK]
    split
    · omega
    · exact hnext
  | _ => exact hnext

/-- Settles O47: an instruction that answers was fetched at `PC <= 0xFFE`; its writes keep memory and the stack, and
its next `PC` is bounded. -/
theorem stepKeepsTheInvariant : Obligations.StepKeepsTheInvariant := by
  rintro s t ⟨hm, -, hk⟩ hs
  obtain ⟨i, hp, -, hx⟩ := (step_eq_next s t).mp hs
  obtain ⟨u, hw, rfl⟩ := exec_eq_next_imp hx
  exact ⟨hw.mem_wf hm, pcAfter_le hp hk i, hw.stack_le hp hk⟩

/-! ### A transaction -/

theorem cycle_keeps_stateInv {s : State} (h : StateInv s) : StateInv (cycle s).1 := by
  cases hs : step s with
  | next t =>
    rw [cycle_of_next hs]
    exact stepKeepsTheInvariant s t h hs
  | fault f => rwa [cycle_of_fault hs]
  | refused r => rwa [cycle_of_refused hs]

theorem cycles_keep_stateInv (n : Nat) {r : State × Status} (h : StateInv r.1) : StateInv (cycles n r).1 := by
  induction n generalizing r with
  | zero => exact h
  | succ n ih => exact ih (cycle_keeps_stateInv h)

theorem stepN_keeps_stateInv {s : State} (h : StateInv s) (n : Word) : StateInv (stepN n s).1 := by
  unfold stepN
  split
  · exact h
  · exact cycles_keep_stateInv n.toNat h

/-- A LOAD is refused or lies in memory as a whole (48_host_interface.md R135). -/
theorem load_keeps_stateInv {s : State} (h : StateInv s) (addr : Word) (bytes : List Byte) :
    StateInv (load addr bytes s).1 := by
  obtain ⟨hm, hp, hk⟩ := h
  unfold load
  split
  · exact ⟨hm, hp, hk⟩
  · exact ⟨Memory.wf_writeBytes hm _ _ (by omega), hp, hk⟩

theorem resetWith_mem_wf (c : Config.Params) : (State.resetWith c).mem.wf :=
  Memory.wf_writeBytes Memory.wf_nil _ _ (by simp)

theorem resetWith_stateInv {c : Config.Params} (hc : c.valid) : StateInv (State.resetWith c) := by
  obtain ⟨-, -, hk⟩ := invariantHoldsAtReset
  exact ⟨resetWith_mem_wf c, hc.2.trans (by decide), hk⟩

/-- Settles O48, transaction by transaction. -/
theorem transactionsKeepTheInvariant : Obligations.TransactionsKeepTheInvariant := by
  intro c tr s hc hr h
  cases tr with
  | reset => exact resetWith_stateInv hc
  | load addr bytes => exact load_keeps_stateInv h addr bytes
  | step => exact cycle_keeps_stateInv h
  | stepN n => exact stepN_keeps_stateInv h n
  | timerWrite t b => cases t <;> exact h
  | displayRead | keyWrite | timerRead | snapshot => exact h
  | restore p => exact absurd rfl (hr p)

end Sys2Proof.Machine
end

section
/-! The state after RESET (10_state.md R32, R33; 70_reset_and_hazards.md R169, R171) for any parameters and for the
default ones (O49, O50). -/

namespace Sys2Proof.Machine

theorem Memory.background_above_font {a : Nat} (h : 80 ≤ a) : Memory.background a = 0 :=
  List.getD_eq_default _ _ h

/-- Writing the reset contents over themselves lists nothing. -/
theorem Memory.writeBytes_background (bs : List Byte) (a : Nat)
    (h : ∀ j (hj : j < bs.length), bs[j] = Memory.background (a + j)) : Memory.writeBytes [] a bs = [] := by
  induction bs generalizing a with
  | nil => rfl
  | cons b bs ih =>
    have hw : Memory.write [] a b = [] := if_pos (h 0 (by simp))
    simp only [Memory.writeBytes, hw]
    exact ih (a + 1) fun j hj => (h (j + 1) (by simpa using hj)).trans (congrArg Memory.background (by omega))

theorem resetWith_read_font (c : Config.Params) (a : Fin 80) :
    (State.resetWith c).mem.read a.val = c.font[a] := by
  simpa [State.resetWith] using Memory.read_writeBytes_inside [] 0 c.font.toList a.val (by simp)

theorem resetWith_read_above_font (c : Config.Params) {a : Nat} (h : 80 ≤ a) :
    (State.resetWith c).mem.read a = 0 :=
  (Memory.read_writeBytes_outside [] 0 c.font.toList a (by simp; omega)).trans (Memory.background_above_font h)

/-- Settles O49: memory by the laws of the block write, every other element by the values of `State.reset`. -/
theorem resetSetsEveryElement : Obligations.ResetSetsEveryElement := by
  intro c s
  refine ⟨rfl, resetWith_read_font c, fun a => resetWith_read_above_font c, resetWith_mem_wf c, fun r => ?_, rfl, rfl,
    State.reset_stack_zero, Display.blank_pixel, rfl, rfl, fun k => ?_, rfl⟩
  · exact Vector.getElem_replicate ..
  · exact Vector.getElem_replicate ..

/-- The default font is the reset contents of memory, so writing it lists nothing. -/
theorem resetWith_default : State.resetWith Config.Params.default = State.reset := by
  have hm : Memory.writeBytes [] 0 Config.font = [] :=
    Memory.writeBytes_background _ 0 fun j hj => by
      rw [Nat.zero_add, Memory.background, List.getD_eq_getElem _ _ hj]
  exact congrArg (fun m => { State.reset with mem := m }) hm

/-- FE6: with nothing loaded the word at 0x200 is 0x0000, which no row of R58 matches. -/
theorem step_reset : step State.reset = .fault (.unsupportedInstruction 0) := by
  have hw : State.reset.mem.readWord State.reset.pc.toNat = 0 := by decide
  have hd : decodeWord 0 = .error (.unsupported 0) := by decide
  have hs := step_of_undecoded (s := State.reset) (by decide) (by rw [hw, hd]; nofun)
  rwa [hw] at hs

/-- Settles O50. -/
theorem resetIsTheDefaultInstance : Obligations.ResetIsTheDefaultInstance :=
  ⟨resetWith_default, by decide, rfl, step_reset⟩

end Sys2Proof.Machine
end

section
/-! The reserved range 0x000..0x1FF (10_state.md R34; 20_memory.md R44; O41): the two instructions that store test
their address against it (D15), so no cycle writes it, and of the transactions only RESET, LOAD and RESTORE may. -/

namespace Sys2Proof.Machine

/-- A store at `I` that commits starts at 0x200 or above. -/
theorem storeAtI_keeps_reserved {bs : List Byte} {s t : State} (h : storeAtI bs s = .next t) {a : Nat}
    (ha : a < 0x200) : t.mem.read a = s.mem.read a := by
  obtain ⟨hi, -, rfl⟩ := (storeAtI_eq_next ..).mp h
  exact Memory.read_writeBytes_outside _ _ _ _ (by omega)

/-- Only Fx33 and Fx55 change memory, and both store at `I`. -/
theorem exec_keeps_reserved {i : Instr} {s t : State} (h : exec i s = .next t) {a : Nat} (ha : a < 0x200) :
    t.mem.read a = s.mem.read a := by
  by_cases hm : sameMem s t
  · exact hm a
  · obtain ⟨-, -, -, -, -, -, -, hmem, -⟩ := otherStateIsWrittenOnlyAsListed i s t h
    rcases hmem hm with ⟨x, rfl⟩ | ⟨x, rfl⟩
    · exact storeAtI_keeps_reserved (bs := decimalDigits (s.readV x)) h ha
    · exact storeAtI_keeps_reserved (bs := regBytes s x) h ha

theorem cycle_keeps_reserved (s : State) {a : Nat} (ha : a < 0x200) :
    (cycle s).1.mem.read a = s.mem.read a := by
  cases hs : step s with
  | next t =>
    obtain ⟨i, -, -, hx⟩ := (step_eq_next s t).mp hs
    rw [cycle_of_next hs]
    exact exec_keeps_reserved hx ha
  | fault f => rw [cycle_of_fault hs]
  | refused r => rw [cycle_of_refused hs]

theorem cycles_keep_reserved (n : Nat) (r : State × Status) {a : Nat} (ha : a < 0x200) :
    (cycles n r).1.mem.read a = r.1.mem.read a := by
  induction n generalizing r with
  | zero => rfl
  | succ n ih => exact (ih (cycle r.1)).trans (cycle_keeps_reserved r.1 ha)

theorem stepN_keeps_reserved (n : Word) (s : State) {a : Nat} (ha : a < 0x200) :
    (stepN n s).1.mem.read a = s.mem.read a := by
  unfold stepN
  split
  · rfl
  · exact cycles_keep_reserved n.toNat (s, .ok) ha

/-- Settles O41, transaction by transaction: the cycles keep the reserved range, and the accessors do not touch
memory. -/
theorem reservedRangeIsNeverWritten : Obligations.ReservedRangeIsNeverWritten := by
  intro c tr s hreset hload hrestore a ha
  cases tr with
  | reset => exact absurd rfl hreset
  | load addr bytes => exact absurd rfl (hload addr bytes)
  | restore p => exact absurd rfl (hrestore p)
  | step => exact cycle_keeps_reserved s ha
  | stepN n => exact stepN_keeps_reserved n s ha
  | timerWrite t b => cases t <;> rfl
  | displayRead | keyWrite | timerRead | snapshot => rfl

end Sys2Proof.Machine
end

section
/-! Decoder, encoder and opcode map agree (30_encoding.md R54 to R61; O1 to O5): an encoded instruction decodes to
itself, a word that decodes is put together again from its fields, the words left over are read off the decoder family
by family, and the rows of the map, which no two share a word, are tied to the decoder through the encoder. -/

namespace Sys2Proof

/-! ### Written-out words (R56, R58) -/

/-- Settles O5, by running the decoder on each word. -/
theorem writtenOutWordsDecode : Obligations.WrittenOutWordsDecode := by
  unfold Obligations.WrittenOutWordsDecode
  decide

/-! ### Decoding an encoded word -/

/-- The fields of an encoded word are the operands it was built from; `n` of Dxyn fits its four bits. -/
theorem decodeWord_encode {i : Instr} (h : i.wellFormed = true) : decodeWord (encode i) = .ok i := by
  cases i with
  | cls | ret => rfl
  | jp | call | ldI | jpV0 => simp [encode, decodeWord]
  | seByte | sneByte | ldByte | addByte | rnd => simp [encode, decodeWord]
  | seReg | sneReg => simp [encode, decodeWord]
  | drw x y n =>
    have hn : n % 16 = n := Nat.mod_eq_of_lt (Nat.lt_succ_of_le (of_decide_eq_true h))
    simp [encode, decodeWord, hn]
  | ldReg | orReg | andReg | xorReg | addReg | subReg | shr | subnReg | shl =>
    simp [encode, decodeWord, decodeFamily8]
  | skp | sknp => simp [encode, decodeWord, decodeFamilyE]
  | ldVxDt | ldVxK | ldDtVx | ldStVx | addI | ldF | ldB | stRegs | ldRegs =>
    simp [encode, decodeWord, decodeFamilyF]

theorem decode_encodeBytes {i : Instr} (h : i.wellFormed = true) (rest : List Byte) :
    decode (encodeBytes i ++ rest) = .ok (i, rest) := by
  simp [encodeBytes, decode, decodeWord_encode h]

/-- Settles O1: on bytes, the decoder answers what it answers on the word that they make. -/
theorem decodeOfEncodeIsTheInstruction : Obligations.DecodeOfEncodeIsTheInstruction :=
  fun _ hi => ⟨decodeWord_encode hi, decode_encodeBytes hi⟩

/-! ### Encoding a decoded word -/

theorem formatA_of_fieldOp {w : Word} {op : Nibble} (hop : fieldOp w = op) : formatA op (fieldNNN w) = w :=
  hop ▸ formatA_fields w

theorem formatXK_of_fieldOp {w : Word} {op : Nibble} (hop : fieldOp w = op) :
    formatXK op (fieldX w) (fieldKK w) = w :=
  hop ▸ formatXK_fields w

theorem formatXYN_of_fieldOp {w : Word} {op : Nibble} (hop : fieldOp w = op) :
    formatXYN op (fieldX w) (fieldY w) (fieldN w) = w :=
  hop ▸ formatXYN_fields w

theorem formatX_of_fields {w : Word} {op : Nibble} {kk : Byte} (hop : fieldOp w = op) (hkk : fieldKK w = kk) :
    formatXK op (fieldX w) kk = w :=
  hkk ▸ formatXK_of_fieldOp hop

theorem formatXY_of_fields {w : Word} {op n : Nibble} (hop : fieldOp w = op) (hn : fieldN w = n) :
    formatXYN op (fieldX w) (fieldY w) n = w :=
  hn ▸ formatXYN_of_fieldOp hop

theorem encode_of_decodeFamily0 {w : Word} {i : Instr} (h : decodeFamily0 w = .ok i) :
    encode i = w ∧ i.wellFormed = true := by
  unfold decodeFamily0 at h
  split_ifs at h with hcls hret
  · cases h; exact ⟨hcls.symm, rfl⟩
  · cases h; exact ⟨hret.symm, rfl⟩

theorem encode_of_decodeFamily8 {w : Word} {i : Instr} (hop : fieldOp w = 0x8) (h : decodeFamily8 w = .ok i) :
    encode i = w ∧ i.wellFormed = true := by
  unfold decodeFamily8 at h
  split at h <;> cases h <;> exact ⟨formatXY_of_fields hop (BitVec.eq_of_toNat_eq ‹_›), rfl⟩

theorem encode_of_decodeFamilyE {w : Word} {i : Instr} (hop : fieldOp w = 0xE) (h : decodeFamilyE w = .ok i) :
    encode i = w ∧ i.wellFormed = true := by
  unfold decodeFamilyE at h
  split at h <;> cases h <;> exact ⟨formatX_of_fields hop (BitVec.eq_of_toNat_eq ‹_›), rfl⟩

theorem encode_of_decodeFamilyF {w : Word} {i : Instr} (hop : fieldOp w = 0xF) (h : decodeFamilyF w = .ok i) :
    encode i = w ∧ i.wellFormed = true := by
  unfold decodeFamilyF at h
  split at h <;> cases h <;> exact ⟨formatX_of_fields hop (BitVec.eq_of_toNat_eq ‹_›), rfl⟩

theorem nibble_cases (b : Nibble) :
    b = 0x0 ∨ b = 0x1 ∨ b = 0x2 ∨ b = 0x3 ∨ b = 0x4 ∨ b = 0x5 ∨ b = 0x6 ∨ b = 0x7 ∨
    b = 0x8 ∨ b = 0x9 ∨ b = 0xA ∨ b = 0xB ∨ b = 0xC ∨ b = 0xD ∨ b = 0xE ∨ b = 0xF := by
  decide +revert

/-- Settles O2, by the arms of the decoder: in each, the fields that it reads make up the whole word in the family's
format. -/
theorem encodeOfDecodeIsTheWord : Obligations.EncodeOfDecodeIsTheWord := by
  intro w i h
  unfold decodeWord at h
  split at h
  case h_1 => exact encode_of_decodeFamily0 h
  case h_2 hop | h_3 hop | h_11 hop | h_12 hop =>
    cases h
    exact ⟨formatA_of_fieldOp (BitVec.eq_of_toNat_eq hop), rfl⟩
  case h_4 hop | h_5 hop | h_7 hop | h_8 hop | h_13 hop =>
    cases h
    exact ⟨formatXK_of_fieldOp (BitVec.eq_of_toNat_eq hop), rfl⟩
  case h_6 hop | h_10 hop =>
    split_ifs at h with hn
    cases h
    exact ⟨formatXY_of_fields (BitVec.eq_of_toNat_eq hop) hn, rfl⟩
  case h_9 hop => exact encode_of_decodeFamily8 (BitVec.eq_of_toNat_eq hop) h
  case h_14 hop =>
    cases h
    have hn : BitVec.ofNat 4 (fieldN w).toNat = fieldN w := by simp
    have hle : (fieldN w).toNat ≤ 15 := Nat.le_of_lt_succ (fieldN w).isLt
    exact ⟨formatXY_of_fields (BitVec.eq_of_toNat_eq hop) hn.symm, decide_eq_true hle⟩
  case h_15 hop => exact encode_of_decodeFamilyE (BitVec.eq_of_toNat_eq hop) h
  case h_16 =>
    have hop : fieldOp w = 0xF := by
      have hcases := nibble_cases (fieldOp w)
      simp_all [← BitVec.toNat_inj]
    exact encode_of_decodeFamilyF hop h

/-! ### The words that no row matches (R61) -/

theorem decodeFamily0_rejects_iff (w : Word) :
    decodeFamily0 w = .error (.unsupported w) ↔ w ≠ 0x00E0 ∧ w ≠ 0x00EE := by
  unfold decodeFamily0
  split_ifs <;> simp [*]

theorem decodeFamily8_rejects_iff (w : Word) :
    decodeFamily8 w = .error (.unsupported w) ↔
      fieldN w ∈ ([0x8, 0x9, 0xA, 0xB, 0xC, 0xD, 0xF] : List Nibble) := by
  rcases nibble_cases (fieldN w) with h | h | h | h | h | h | h | h | h | h | h | h | h | h | h | h <;>
    simp [decodeFamily8, h]

theorem decodeFamilyE_rejects_iff (w : Word) :
    decodeFamilyE w = .error (.unsupported w) ↔ fieldKK w ∉ ([0x9E, 0xA1] : List Byte) := by
  unfold decodeFamilyE
  split
  case h_3 hne9E hneA1 => simpa [← BitVec.toNat_inj] using ⟨hne9E, hneA1⟩
  all_goals simp [← BitVec.toNat_inj, *]

theorem decodeFamilyF_rejects_iff (w : Word) :
    decodeFamilyF w = .error (.unsupported w) ↔
      fieldKK w ∉ ([0x07, 0x0A, 0x15, 0x18, 0x1E, 0x29, 0x33, 0x55, 0x65] : List Byte) := by
  unfold decodeFamilyF
  split
  case h_10 =>
    simp only [List.mem_cons, List.not_mem_nil, or_false, ← BitVec.toNat_inj]
    tauto
  all_goals simp [← BitVec.toNat_inj, *]

/-- Settles O3, by the value of the family field. -/
theorem unsupportedWordsAreThoseListed : Obligations.UnsupportedWordsAreThoseListed := by
  intro w
  rw [← decodeFamily0_rejects_iff, ← decodeFamily8_rejects_iff, ← decodeFamilyE_rejects_iff,
    ← decodeFamilyF_rejects_iff]
  rcases nibble_cases (fieldOp w) with h | h | h | h | h | h | h | h | h | h | h | h | h | h | h | h <;>
    simp [decodeWord, h]

/-- The decoder on words rejects by one name only. -/
theorem decodeWord_rejects {w : Word} {e : Reject} (h : decodeWord w = .error e) : e = .unsupported w := by
  unfold decodeWord decodeFamily0 decodeFamily8 decodeFamilyE decodeFamilyF at h
  repeat' split at h
  all_goals cases h
  all_goals rfl

/-! ### The opcode map (R58) -/

open Laws.OpcodeMapRow in
/-- Every instruction's row is in the map, and its word matches the row. -/
theorem opcodeMap_row_of_instr : ∀ i, Statement i
  | .cls => cls
  | .ret => ret
  | .jp nnn => jp nnn
  | .call nnn => call nnn
  | .seByte x kk => seByte x kk
  | .sneByte x kk => sneByte x kk
  | .seReg x y => seReg x y
  | .ldByte x kk => ldByte x kk
  | .addByte x kk => addByte x kk
  | .ldReg x y => ldReg x y
  | .orReg x y => orReg x y
  | .andReg x y => andReg x y
  | .xorReg x y => xorReg x y
  | .addReg x y => addReg x y
  | .subReg x y => subReg x y
  | .shr x y => shr x y
  | .subnReg x y => subnReg x y
  | .shl x y => shl x y
  | .sneReg x y => sneReg x y
  | .ldI nnn => ldI nnn
  | .jpV0 nnn => jpV0 nnn
  | .rnd x kk => rnd x kk
  | .drw x y n => drw x y n
  | .skp x => skp x
  | .sknp x => sknp x
  | .ldVxDt x => ldVxDt x
  | .ldVxK x => ldVxK x
  | .ldDtVx x => ldDtVx x
  | .ldStVx x => ldStVx x
  | .addI x => addI x
  | .ldF x => ldF x
  | .ldB x => ldB x
  | .stRegs x => stRegs x
  | .ldRegs x => ldRegs x

/-- No word matches two rows. -/
theorem opcodeMap_disjoint : ∀ r ∈ opcodeMap, ∀ r' ∈ opcodeMap,
    r.value &&& r'.mask = r'.value &&& r.mask → r = r' := by decide

theorem opcodeRow_eq_of_matches {w : Word} {r r' : OpcodeRow} (hr : r ∈ opcodeMap) (hr' : r' ∈ opcodeMap)
    (h : w &&& r.mask = r.value) (h' : w &&& r'.mask = r'.value) : r = r' := by
  refine opcodeMap_disjoint r hr r' hr' ?_
  rw [← h, ← h', BitVec.and_assoc, BitVec.and_assoc, BitVec.and_comm r.mask]

theorem opcodeRow_eq_of_number : ∀ r ∈ opcodeMap, ∀ r' ∈ opcodeMap, r.number = r'.number → r = r' := by decide

/-! A row's mask covers a field of the word: there the word agrees with the row's value. -/

theorem extractLsb'_of_matches {w : Word} {r : OpcodeRow} {k n : Nat} (h : w &&& r.mask = r.value)
    (hm : r.mask.extractLsb' k n = BitVec.allOnes n) : r.value.extractLsb' k n = w.extractLsb' k n := by
  rw [← h, BitVec.extractLsb'_and, hm, BitVec.and_allOnes]

theorem fieldOp_of_matches {w : Word} {r : OpcodeRow} (h : w &&& r.mask = r.value) (hm : fieldOp r.mask = 0xF) :
    fieldOp r.value = fieldOp w :=
  extractLsb'_of_matches h hm

theorem fieldN_of_matches {w : Word} {r : OpcodeRow} (h : w &&& r.mask = r.value) (hm : fieldN r.mask = 0xF) :
    fieldN r.value = fieldN w :=
  extractLsb'_of_matches h hm

theorem fieldKK_of_matches {w : Word} {r : OpcodeRow} (h : w &&& r.mask = r.value) (hm : fieldKK r.mask = 0xFF) :
    fieldKK r.value = fieldKK w :=
  extractLsb'_of_matches h hm

/-! The rows of the families that hold unsupported words: what the mask covers, and which values stand there. -/

theorem opcodeMap_mask_covers_op : ∀ r ∈ opcodeMap, fieldOp r.mask = 0xF := by decide

theorem opcodeMap_family0 : ∀ r ∈ opcodeMap, fieldOp r.value = 0x0 →
    r.mask = 0xFFFF ∧ (r.value = 0x00E0 ∨ r.value = 0x00EE) := by decide

theorem opcodeMap_family5_or_9 : ∀ r ∈ opcodeMap, fieldOp r.value = 0x5 ∨ fieldOp r.value = 0x9 →
    fieldN r.mask = 0xF ∧ fieldN r.value = 0 := by decide

theorem opcodeMap_family8 : ∀ r ∈ opcodeMap, fieldOp r.value = 0x8 →
    fieldN r.mask = 0xF ∧ fieldN r.value ∉ ([0x8, 0x9, 0xA, 0xB, 0xC, 0xD, 0xF] : List Nibble) := by decide

theorem opcodeMap_familyE : ∀ r ∈ opcodeMap, fieldOp r.value = 0xE →
    fieldKK r.mask = 0xFF ∧ fieldKK r.value ∈ ([0x9E, 0xA1] : List Byte) := by decide

theorem opcodeMap_familyF : ∀ r ∈ opcodeMap, fieldOp r.value = 0xF →
    fieldKK r.mask = 0xFF ∧
      fieldKK r.value ∈ ([0x07, 0x0A, 0x15, 0x18, 0x1E, 0x29, 0x33, 0x55, 0x65] : List Byte) := by decide

/-- The six kinds of unsupported words (R61) match no row. -/
theorem not_unsupported_of_matches {w : Word} {r : OpcodeRow} (hr : r ∈ opcodeMap) (h : w &&& r.mask = r.value) :
    decodeWord w ≠ .error (.unsupported w) := by
  rw [ne_eq, unsupportedWordsAreThoseListed, ← fieldOp_of_matches h (opcodeMap_mask_covers_op r hr)]
  rintro (⟨hop, hcls, hret⟩ | ⟨hop, hn⟩ | ⟨hop, hn⟩ | ⟨hop, hn⟩ | ⟨hop, hkk⟩ | ⟨hop, hkk⟩)
  · obtain ⟨hm, hv⟩ := opcodeMap_family0 r hr hop
    have hw : w = r.value := by rw [← h, hm]; exact BitVec.and_allOnes.symm
    exact hv.elim (fun hv => hcls (hw.trans hv)) (fun hv => hret (hw.trans hv))
  · obtain ⟨hm, hv⟩ := opcodeMap_family5_or_9 r hr (.inl hop)
    exact hn ((fieldN_of_matches h hm).symm.trans hv)
  · obtain ⟨hm, hv⟩ := opcodeMap_family8 r hr hop
    exact hv (fieldN_of_matches h hm ▸ hn)
  · obtain ⟨hm, hv⟩ := opcodeMap_family5_or_9 r hr (.inr hop)
    exact hn ((fieldN_of_matches h hm).symm.trans hv)
  · obtain ⟨hm, hv⟩ := opcodeMap_familyE r hr hop
    exact hkk (fieldKK_of_matches h hm ▸ hv)
  · obtain ⟨hm, hv⟩ := opcodeMap_familyF r hr hop
    exact hkk (fieldKK_of_matches h hm ▸ hv)

/-- The row of the instruction that a word decodes to is a row that the word matches. -/
theorem matches_row_of_decodeWord {w : Word} {i : Instr} (h : decodeWord w = .ok i) :
    ∃ r ∈ opcodeMap, r.number = i.rowNumber ∧ w &&& r.mask = r.value := by
  obtain ⟨rfl, -⟩ := encodeOfDecodeIsTheWord w i h
  exact opcodeMap_row_of_instr i

/-- Settles O4. A matching word is not unsupported, so it decodes, and no two rows share a word; conversely a word
matches its instruction's row, which the number names. -/
theorem opcodeMapRowSelectsTheInstruction : Obligations.OpcodeMapRowSelectsTheInstruction := by
  intro w r hr
  constructor
  · intro h
    cases hd : decodeWord w with
    | error e =>
      rw [decodeWord_rejects hd] at hd
      exact absurd hd (not_unsupported_of_matches hr h)
    | ok i =>
      obtain ⟨r', hr', hnum, h'⟩ := matches_row_of_decodeWord hd
      rw [opcodeRow_eq_of_matches hr hr' h h']
      exact ⟨i, rfl, hnum.symm⟩
  · rintro ⟨i, hd, hi⟩
    obtain ⟨r', hr', hnum, h'⟩ := matches_row_of_decodeWord hd
    rwa [opcodeRow_eq_of_number r hr r' hr' (hi.symm.trans hnum.symm)]

end Sys2Proof
end

section
/-! One cycle and cycles in a row (40_step_cycle.md R67 to R70, R76, R77; O6, O7, O35, O45): what a step fetches and
runs, and what becomes of a state that its own step or cycle answers again. -/

namespace Sys2Proof.Machine

/-! ### Fetch, decode, execute (40_step_cycle.md R67 to R70) -/

theorem step_of_decoded {s : State} {i : Instr} (hp : s.pc.toNat ≤ 0xFFE)
    (hd : decodeWord (s.mem.readWord s.pc.toNat) = .ok i) : step s = exec i s := by
  have hf := (fetchWord_eq_ok s _).mpr ⟨hp, rfl⟩
  simp only [step, hf, hd]

/-- Settles O6, from the three ranges of `PC` and the value of two bytes read as a word. -/
theorem fetchBoundsAndByteOrder : Obligations.FetchBoundsAndByteOrder :=
  fun s => ⟨step_of_pc_outside, step_of_pc_last, fun hp =>
    ⟨s.mem.readWord s.pc.toNat, (fetchWord_eq_ok s _).mpr ⟨hp, rfl⟩, wordOfBytes_toNat ..⟩⟩

/-- Settles O7: the word of the two bytes is the word that a step fetches. -/
theorem stepRunsTheDecodedInstruction : Obligations.StepRunsTheDecodedInstruction := by
  rintro s w hp rfl
  exact ⟨fun i hd => step_of_decoded hp hd, fun hd => step_of_undecoded hp hd⟩

/-! ### A jump to its own address (40_step_cycle.md R77) -/

theorem runsClean_of_step_self {s : State} (h : step s = .next s) : ∀ k, runsClean k s
  | 0 => trivial
  | k + 1 => ⟨s, h, runsClean_of_step_self h k⟩

theorem exec_jp_self {s : State} {nnn : Addr12} (h : nnn.toNat = s.pc.toNat) : exec (.jp nnn) s = .next s := by
  have hpc : zextAddr nnn = s.pc := BitVec.eq_of_toNat_eq ((zextAddr_toNat nnn).trans h)
  have hx : exec (.jp nnn) s = .next (s.setPc (zextAddr nnn)) := rfl
  rw [hx, hpc, State.setPc_pc_self]

/-- Settles O45: the jump answers the state it was given, so every further step answers it too. -/
theorem selfJumpRunsForEver : Obligations.SelfJumpRunsForEver :=
  fun _ _ hp hnnn hd => runsClean_of_step_self ((step_of_decoded hp hd).trans (exec_jp_self hnnn))

/-! ### A waiting Fx0A (40_step_cycle.md R76; 46_keys_timers.md R122) -/

theorem cycle_of_holds {s : State} (h : holds s = true) : cycle s = (s, .waitingForInput) := by
  rw [cycle_of_next (step_of_holds h), if_pos h]

theorem cycles_of_cycle_self {s : State} {st : Status} (h : cycle s = (s, st)) (n : Nat) (st₀ : Status) :
    cycles (n + 1) (s, st₀) = (s, st) := by
  induction n generalizing st₀ with
  | zero => exact h
  | succ n ih =>
    calc cycles (n + 1 + 1) (s, st₀) = cycles (n + 1) (cycle s) := rfl
      _ = cycles (n + 1) (s, st) := by rw [h]
      _ = (s, st) := ih st

/-- STEPN runs on through a status that leaves the state alone, and replies it (D24). -/
theorem stepN_of_cycle_self {s : State} {st : Status} (h : cycle s = (s, st)) {n : Word} (hn : n ≠ 0) :
    stepN n s = (s, .status st) := by
  have hn' : n.toNat ≠ 0 := fun h0 => hn (BitVec.eq_of_toNat_eq h0)
  obtain ⟨m, hm⟩ := Nat.exists_eq_succ_of_ne_zero hn'
  have hc : cycles n.toNat (s, .ok) = (s, st) := hm ▸ cycles_of_cycle_self h m .ok
  simp only [stepN, if_neg hn', hc]

theorem keyWrite_keys (k j : Fin 16) (b : Bool) (s : State) :
    (keyWrite k b s).keys[j] = if j = k then b else s.keys[j] := by
  simp [keyWrite, Vector.getElem_set, Fin.ext_iff, eq_comm]

/-- A pressed key below which none is pressed is the one that `lowestKey` finds. -/
theorem lowestKey_of_smallest {keys : Vector Bool 16} {k : Fin 16} (hk : keys[k] = true)
    (hlt : ∀ j : Fin 16, j < k → keys[j] = false) : lowestKey keys = some k := by
  cases hj : lowestKey keys with
  | none => exact absurd ((lowestKey_eq_none keys).mp hj k) (by simp [hk])
  | some j =>
    obtain ⟨hjk, hjlt⟩ := lowestKey_eq_some keys j hj
    rcases lt_trichotomy j k with h | rfl | h
    · exact absurd (hlt j h) (by simp [hjk])
    · rfl
    · exact absurd (hjlt k h) (by simp [hk])

theorem lowestKey_keyWrite_of_none {s : State} (h : ∀ j : Fin 16, s.keys[j] = false) (k : Fin 16) :
    lowestKey (keyWrite k true s).keys = some k :=
  lowestKey_of_smallest (by rw [keyWrite_keys, if_pos rfl]) fun j hj => by rw [keyWrite_keys, if_neg hj.ne, h j]

/-- The value of a key id written to a register. -/
theorem keyId_toNat (k : Fin 16) : (BitVec.ofNat 8 k.val : Byte).toNat = k.val := by
  rw [BitVec.toNat_ofNat]
  omega

/-- Settles O35: the wait holds, so each cycle of STEPN answers the same state; the one key then pressed is the
smallest, and the cycle that sees it stores it (D18). -/
theorem keyWaitEndsAfterKeyWrite : Obligations.KeyWaitEndsAfterKeyWrite := by
  intro c s x n k hp hd hkeys hn
  have hcycle : cycle s = (s, .waitingForInput) := cycle_of_holds ((holds_iff s).mpr ⟨hp, hkeys, x, hd⟩)
  refine ⟨stepN_of_cycle_self hcycle hn, ?_⟩
  have hstep : step (keyWrite k true s) = exec (.ldVxK x) (keyWrite k true s) := step_of_decoded hp hd
  have hexec := (execLdVxK_eq_next x (keyWrite k true s) _).mpr (.inr ⟨k, lowestKey_keyWrite_of_none hkeys k, rfl⟩)
  refine ⟨_, hstep.trans hexec, ?_, rfl⟩
  rw [State.setPc_readV, State.writeV_readV, if_pos rfl, keyId_toNat]

end Sys2Proof.Machine
end

section
/-! Control transfer (41_flow.md R79 to R82; O13 to O17): the state that each of the four instructions answers, the
fault at either end of the stack, and the return that undoes a call. -/

namespace Sys2Proof.Machine

/-! ### The answers (R79 to R82) -/

/-- The state after 2nnn with entry `j` the free one (R81). -/
def State.afterCall (s : State) (nnn : Addr12) (j : Fin 16) : State :=
  ((s.setStack (s.stack.set j (s.pc + 2))).setSp j.succ).setPc (zextAddr nnn)

/-- The state after 00EE with entry `j` the top one (R79). -/
def State.afterRet (s : State) (j : Fin 16) : State := (s.setSp j.castSucc).setPc s.stack[j]

theorem exec_jp (nnn : Addr12) (s : State) : exec (.jp nnn) s = .next (s.setPc (zextAddr nnn)) := rfl

theorem exec_jpV0 (nnn : Addr12) (s : State) :
    exec (.jpV0 nnn) s = .next (s.setPc (zextAddr nnn + zextByte (s.readV 0))) := rfl

theorem exec_call_of_full {s : State} (h : s.sp.val = 16) (nnn : Addr12) :
    exec (.call nnn) s = .fault .stackOverflow := dif_pos h

theorem exec_call_of_free {s : State} {j : Fin 16} (hj : s.sp.val = j.val) (nnn : Addr12) :
    exec (.call nnn) s = .next (s.afterCall nnn j) :=
  (execCall_eq_next ..).mpr ⟨j, hj, rfl⟩

theorem exec_ret_of_empty {s : State} (h : s.sp.val = 0) : exec .ret s = .fault .stackUnderflow := dif_pos h

theorem exec_ret_of_top {s : State} {j : Fin 16} (hj : s.sp.val = j.val + 1) :
    exec .ret s = .next (s.afterRet j) :=
  (execRet_eq_next ..).mpr ⟨j, hj, rfl⟩

/-! ### A call and its return -/

theorem State.afterCall_stack (s : State) (nnn : Addr12) (j k : Fin 16) :
    (s.afterCall nnn j).stack[k] = if k.val = j.val then s.pc + 2 else s.stack[k] := by
  simp [State.afterCall, Vector.getElem_set, eq_comm]

/-- The return undoes the call but for the entry, which stays above `SP`, and for `PC`. -/
theorem State.afterRet_afterCall {s : State} {j : Fin 16} (hj : s.sp.val = j.val) (nnn : Addr12) :
    (s.afterCall nnn j).afterRet j = (s.setStack (s.stack.set j (s.pc + 2))).setPc (s.pc + 2) := by
  have hsp : j.castSucc = s.sp := Fin.ext hj.symm
  have htop : (s.afterCall nnn j).stack[j] = s.pc + 2 :=
    (State.afterCall_stack s nnn j j).trans (if_pos rfl)
  rw [State.afterRet, htop, hsp]
  rfl

theorem exec_ret_afterCall {s : State} {j : Fin 16} (hj : s.sp.val = j.val) (nnn : Addr12) :
    exec .ret (s.afterCall nnn j) = .next ((s.setStack (s.stack.set j (s.pc + 2))).setPc (s.pc + 2)) := by
  have htop : (s.afterCall nnn j).sp.val = j.val + 1 := rfl
  rw [exec_ret_of_top htop, State.afterRet_afterCall hj]

/-! ### The statements -/

/-- Settles O17: both words are fetched from the memory of `s`, which the call leaves alone, and the return undoes the
call. -/
theorem callThenReturnComesBack : Obligations.CallThenReturnComesBack := by
  intro s nnn hp hsp hcall hnnn hret
  obtain ⟨j, hj⟩ : ∃ j : Fin 16, s.sp.val = j.val := ⟨⟨s.sp.val, hsp⟩, rfl⟩
  have hfirst : step s = .next (s.afterCall nnn j) := (step_of_decoded hp hcall).trans (exec_call_of_free hj nnn)
  have hpc : (s.afterCall nnn j).pc.toNat = nnn.toNat := zextAddr_toNat nnn
  have hword : (s.afterCall nnn j).mem.readWord (s.afterCall nnn j).pc.toNat = 0x00EE := hpc ▸ hret
  have hsecond : step (s.afterCall nnn j) = exec .ret (s.afterCall nnn j) :=
    step_of_decoded (hpc ▸ hnnn) (hword ▸ decodeWord_encode (i := .ret) rfl)
  exact ⟨_, _, hfirst, hsecond.trans (exec_ret_afterCall hj nnn), toNat_add_two hp, rfl, fun _ => rfl, fun _ => rfl,
    rfl, ⟨rfl, rfl, rfl, rfl⟩⟩

/-- Settles O13: a jump moves `PC` and nothing else, and `PC` where it stood answers the state itself. -/
theorem jumpSetsPc : Obligations.JumpSetsPc := fun nnn s =>
  ⟨decodeWord_encode (i := .jp nnn) rfl, _, exec_jp nnn s, zextAddr_toNat nnn, sameButPc_setPc s _,
    fun h => Host.Outcome.next.inj (exec_jp_self h)⟩

/-- Settles O14: both summands are extended to sixteen bits, where their sum does not wrap (D11). -/
theorem indexedJumpAddsV0 : Obligations.IndexedJumpAddsV0 := fun nnn s =>
  ⟨_, exec_jpV0 nnn s, indexed_target_toNat nnn (s.readV 0), sameButPc_setPc s _⟩

/-- Settles O15: with an entry free the call answers `afterCall`, from which the return comes back. -/
theorem callPushesTheReturnAddress : Obligations.CallPushesTheReturnAddress := by
  refine fun nnn s => ⟨decodeWord_encode (i := .call nnn) rfl, fun hfull => exec_call_of_full hfull nnn, fun hsp => ?_⟩
  obtain ⟨j, hj⟩ : ∃ j : Fin 16, s.sp.val = j.val := ⟨⟨s.sp.val, hsp⟩, rfl⟩
  rw [hj]
  exact ⟨_, exec_call_of_free hj nnn, zextAddr_toNat nnn, rfl, State.afterCall_stack s nnn j, fun _ => rfl,
    fun _ => rfl, rfl, ⟨rfl, rfl, rfl, rfl⟩, rfl, _, exec_ret_afterCall hj nnn, rfl, rfl⟩

/-- Settles O16: with `SP` above 0 the return answers `afterRet`, which differs in `SP` and `PC` only. -/
theorem returnPopsIntoPc : Obligations.ReturnPopsIntoPc :=
  ⟨decodeWord_encode (i := .ret) rfl, fun s => ⟨exec_ret_of_empty, fun j hj =>
    ⟨s.afterRet j, exec_ret_of_top hj, rfl, rfl, rfl, fun _ => rfl, fun _ => rfl, rfl, ⟨rfl, rfl, rfl, rfl⟩, rfl⟩⟩⟩

end Sys2Proof.Machine
end

section
/-! Conditional skips on registers (42_skip.md R83 to R87; O18, O19): the four instructions are `skipWhen` on an equality
or an inequality of two bytes, and a skip moves `PC` alone. -/

namespace Sys2Proof.Machine

/-! ### The answers (R83 to R87) -/

theorem exec_seByte (x : RegIdx) (kk : Byte) (s : State) :
    exec (.seByte x kk) s = skipWhen (s.readV x == kk) s := rfl

theorem exec_sneByte (x : RegIdx) (kk : Byte) (s : State) :
    exec (.sneByte x kk) s = skipWhen (s.readV x != kk) s := rfl

theorem exec_seReg (x y : RegIdx) (s : State) :
    exec (.seReg x y) s = skipWhen (s.readV x == s.readV y) s := rfl

theorem exec_sneReg (x y : RegIdx) (s : State) :
    exec (.sneReg x y) s = skipWhen (s.readV x != s.readV y) s := rfl

theorem skipWhen_movesPcOnly (c : Bool) (s : State) :
    ∃ t, skipWhen c s = .next t ∧ sameButPc s t ∧ t.pc = if c then s.pc + 4 else s.pc + 2 :=
  ⟨_, (skipWhen_eq_next ..).mpr rfl, sameButPc_setPc s _, rfl⟩

theorem skipWhen_beq_movesPcOnly (a b : Byte) (s : State) :
    ∃ t, skipWhen (a == b) s = .next t ∧ sameButPc s t ∧
      t.pc = if a.toNat = b.toNat then s.pc + 4 else s.pc + 2 := by
  simpa only [beq_iff_eq, BitVec.toNat_inj] using skipWhen_movesPcOnly (a == b) s

theorem skipWhen_bne_movesPcOnly (a b : Byte) (s : State) :
    ∃ t, skipWhen (a != b) s = .next t ∧ sameButPc s t ∧
      t.pc = if a.toNat = b.toNat then s.pc + 2 else s.pc + 4 := by
  simpa only [bne_iff_ne, ite_not, BitVec.toNat_inj] using skipWhen_movesPcOnly (a != b) s

/-! ### The words left over in families 5 and 9 (R61, R86, R87) -/

theorem decodeWord_family5_rejects {n : Nibble} (hn : n ≠ 0) (x y : RegIdx) :
    decodeWord (formatXYN 0x5 x y n) = .error (.unsupported (formatXYN 0x5 x y n)) :=
  (unsupportedWordsAreThoseListed _).mpr (.inr (.inl (by simpa using hn)))

theorem decodeWord_family9_rejects {n : Nibble} (hn : n ≠ 0) (x y : RegIdx) :
    decodeWord (formatXYN 0x9 x y n) = .error (.unsupported (formatXYN 0x9 x y n)) :=
  (unsupportedWordsAreThoseListed _).mpr (.inr (.inr (.inr (.inl (by simpa using hn)))))

/-! ### The statements -/

/-- Settles O18: both words are encodings, and both answers are skips on the comparison of `V[x]` with `kk`. -/
theorem byteSkips : Obligations.ByteSkips := by
  refine fun x kk s =>
    ⟨⟨decodeWord_encode (i := .seByte x kk) rfl, decodeWord_encode (i := .sneByte x kk) rfl⟩, ?_, ?_⟩
  · rw [exec_seByte]
    exact skipWhen_beq_movesPcOnly (s.readV x) kk s
  · rw [exec_sneByte]
    exact skipWhen_bne_movesPcOnly (s.readV x) kk s

/-- Settles O19: the words with low nibble 0 are encodings, the others are among the words no row matches, and both
answers are skips on the comparison of `V[x]` with `V[y]`. -/
theorem registerSkips : Obligations.RegisterSkips := by
  refine fun x y s => ⟨⟨decodeWord_encode (i := .seReg x y) rfl, decodeWord_encode (i := .sneReg x y) rfl⟩,
    fun n hn => ⟨decodeWord_family5_rejects hn x y, decodeWord_family9_rejects hn x y⟩, ?_, ?_⟩
  · rw [exec_seReg]
    exact skipWhen_beq_movesPcOnly (s.readV x) (s.readV y) s
  · rw [exec_sneReg]
    exact skipWhen_bne_movesPcOnly (s.readV x) (s.readV y) s

end Sys2Proof.Machine
end

section
/-! Register loads, arithmetic, logic, shifts and the random byte (43_alu.md R88 to R101; O21 to O27): the answer of
`writeResult` and of `writeFlagged` said once, the flag values as numbers, and the twelve instructions from them. -/

namespace Sys2Proof.Machine

/-! ### A result and no flag (R88 to R95, R101) -/

theorem writeResult_readV (x : RegIdx) (b : Byte) (s : State) :
    ∃ t, writeResult x b s = .next t ∧ t.pc = s.pc + 2 ∧ sameButRegs s t ∧
      ∀ r, t.readV r = if r = x then b else s.readV r :=
  ⟨_, (writeResult_eq_next ..).mpr rfl, rfl, sameButRegs_setVs_setPc s _ _, fun r => State.writeV_readV s x r b⟩

/-- The same with the destination and the other registers apart. -/
theorem writeResult_changesOnly (x : RegIdx) (b : Byte) (s : State) :
    ∃ t, writeResult x b s = .next t ∧ t.pc = s.pc + 2 ∧ sameButRegs s t ∧
      t.readV x = b ∧ ∀ r, r ≠ x → t.readV r = s.readV r := by
  obtain ⟨t, ht, hpc, hframe, hv⟩ := writeResult_readV x b s
  exact ⟨t, ht, hpc, hframe, (hv x).trans (if_pos rfl), fun r hr => (hv r).trans (if_neg hr)⟩

/-- The three logic instructions at once: `f` is the operation on one bit. -/
theorem writeResult_bitwise {x y : RegIdx} {b : Byte} {s : State} (f : Bool → Bool → Bool)
    (hb : ∀ k, b.getLsbD k = f ((s.readV x).getLsbD k) ((s.readV y).getLsbD k)) :
    ∃ t, writeResult x b s = .next t ∧ t.pc = s.pc + 2 ∧ sameButRegs s t ∧ (∀ r, r ≠ x → t.readV r = s.readV r) ∧
      ∀ k, (t.readV x).getLsbD k = f ((s.readV x).getLsbD k) ((s.readV y).getLsbD k) := by
  obtain ⟨t, ht, hpc, hframe, hx, hr⟩ := writeResult_changesOnly x b s
  exact ⟨t, ht, hpc, hframe, hr, hx.symm ▸ hb⟩

/-! ### The flags as numbers (10_state.md R16) -/

theorem flagByte_toNat (c : Bool) : (flagByte c).toNat = c.toNat := by cases c <;> rfl

theorem flagByte_decide_toNat (p : Prop) [Decidable p] : (flagByte (decide p)).toNat = if p then 1 else 0 := by
  by_cases hp : p <;> simp [hp, flagByte]

theorem carry_toNat (a b : Byte) : (carry a b).toNat = if 255 < a.toNat + b.toNat then 1 else 0 :=
  flagByte_decide_toNat _

theorem notBorrow_toNat (a b : Byte) : (notBorrow a b).toNat = if b.toNat ≤ a.toNat then 1 else 0 :=
  flagByte_decide_toNat _

theorem outRight_toNat (a : Byte) : (outRight a).toNat = a.toNat % 2 := by
  rw [outRight, flagByte_toNat, BitVec.getLsbD, Nat.toNat_testBit, pow_zero, Nat.div_one]

theorem outLeft_toNat (a : Byte) : (outLeft a).toNat = a.toNat / 128 := by
  have ha : a.toNat < 256 := a.isLt
  rw [outLeft, flagByte_toNat, BitVec.getLsbD, Nat.toNat_testBit]
  omega

/-! ### A flag and a result (R96 to R100; 10_state.md R17) -/

theorem writeFlagged_changesOnly (x : RegIdx) (f b : Byte) (s : State) :
    ∃ t, writeFlagged x f b s = .next t ∧ t.pc = s.pc + 2 ∧ sameButRegs s t ∧
      t.readV x = b ∧ (x ≠ 15 → t.readV 15 = f) ∧ ∀ r, r ≠ x → r ≠ 15 → t.readV r = s.readV r := by
  have hv (r : RegIdx) : (s.writeFlagThenResult x f b).readV r = if r = x then b else if r = 15 then f else s.readV r :=
    State.writeFlagThenResult_readV s x r f b
  exact ⟨_, (writeFlagged_eq_next ..).mpr rfl, rfl, sameButRegs_setVs_setPc s _ _, (hv x).trans (if_pos rfl),
    fun hx => (hv 15).trans ((if_neg hx.symm).trans (if_pos rfl)),
    fun r hr hf => (hv r).trans ((if_neg hr).trans (if_neg hf))⟩

/-- The same in numbers. -/
theorem writeFlagged_toNat {f b : Byte} {m n : Nat} (hf : f.toNat = m) (hb : b.toNat = n) (x : RegIdx) (s : State) :
    ∃ t, writeFlagged x f b s = .next t ∧ t.pc = s.pc + 2 ∧ sameButRegs s t ∧
      (t.readV x).toNat = n ∧ (x ≠ 15 → (t.readV 15).toNat = m) ∧
      ∀ r, r ≠ x → r ≠ 15 → t.readV r = s.readV r := by
  obtain ⟨t, ht, hpc, hframe, hx, hflag, hr⟩ := writeFlagged_changesOnly x f b s
  exact ⟨t, ht, hpc, hframe, hx ▸ hb, fun h => hflag h ▸ hf, hr⟩

theorem toNat_sub_eq_emod (a b : Byte) : ((a - b).toNat : Int) = ((a.toNat : Int) - (b.toNat : Int)) % 256 := by
  rw [BitVec.toNat_sub]
  omega

/-- Both subtractions at once: `a` is the minuend and `b` the subtrahend. -/
theorem writeFlagged_sub (x : RegIdx) (a b : Byte) (s : State) :
    ∃ t, writeFlagged x (notBorrow a b) (a - b) s = .next t ∧ t.pc = s.pc + 2 ∧ sameButRegs s t ∧
      ((t.readV x).toNat : Int) = ((a.toNat : Int) - (b.toNat : Int)) % 256 ∧
      (x ≠ 15 → (t.readV 15).toNat = if b.toNat ≤ a.toNat then 1 else 0) ∧
      ∀ r, r ≠ x → r ≠ 15 → t.readV r = s.readV r := by
  obtain ⟨t, ht, hpc, hframe, hx, hrest⟩ := writeFlagged_toNat (notBorrow_toNat a b) rfl x s
  exact ⟨t, ht, hpc, hframe, hx ▸ toNat_sub_eq_emod a b, hrest⟩

theorem toNat_shiftRight_one (a : Byte) : (a >>> 1).toNat = a.toNat / 2 := by
  rw [BitVec.toNat_ushiftRight, Nat.shiftRight_eq_div_pow, pow_one]

theorem toNat_shiftLeft_one (a : Byte) : (a <<< 1).toNat = a.toNat * 2 % 256 := by
  rw [BitVec.toNat_shiftLeft, Nat.shiftLeft_eq, pow_one]

/-! ### The answers (R90 to R101) -/

theorem exec_ldByte (x : RegIdx) (kk : Byte) (s : State) : exec (.ldByte x kk) s = writeResult x kk s := rfl

theorem exec_ldReg (x y : RegIdx) (s : State) : exec (.ldReg x y) s = writeResult x (s.readV y) s := rfl

theorem exec_addByte (x : RegIdx) (kk : Byte) (s : State) :
    exec (.addByte x kk) s = writeResult x (s.readV x + kk) s := rfl

theorem exec_orReg (x y : RegIdx) (s : State) :
    exec (.orReg x y) s = writeResult x (s.readV x ||| s.readV y) s := rfl

theorem exec_andReg (x y : RegIdx) (s : State) :
    exec (.andReg x y) s = writeResult x (s.readV x &&& s.readV y) s := rfl

theorem exec_xorReg (x y : RegIdx) (s : State) :
    exec (.xorReg x y) s = writeResult x (s.readV x ^^^ s.readV y) s := rfl

theorem exec_addReg (x y : RegIdx) (s : State) :
    exec (.addReg x y) s = writeFlagged x (carry (s.readV x) (s.readV y)) (s.readV x + s.readV y) s := rfl

theorem exec_subReg (x y : RegIdx) (s : State) :
    exec (.subReg x y) s = writeFlagged x (notBorrow (s.readV x) (s.readV y)) (s.readV x - s.readV y) s := rfl

theorem exec_subnReg (x y : RegIdx) (s : State) :
    exec (.subnReg x y) s = writeFlagged x (notBorrow (s.readV y) (s.readV x)) (s.readV y - s.readV x) s := rfl

theorem exec_shr (x y : RegIdx) (s : State) :
    exec (.shr x y) s = writeFlagged x (outRight (s.readV x)) (s.readV x >>> 1) s := rfl

theorem exec_shl (x y : RegIdx) (s : State) :
    exec (.shl x y) s = writeFlagged x (outLeft (s.readV x)) (s.readV x <<< 1) s := rfl

theorem exec_rnd (x : RegIdx) (kk : Byte) (s : State) :
    exec (.rnd x kk) s = writeResult x (Config.randomByte s.draws &&& kk) (s.setDraws (s.draws + 1)) := rfl

/-! ### The statements -/

/-- Settles O21: both words are encodings, and both answers write one register. -/
theorem registerLoads : Obligations.RegisterLoads := by
  refine fun x y kk s =>
    ⟨⟨decodeWord_encode (i := .ldByte x kk) rfl, decodeWord_encode (i := .ldReg x y) rfl⟩, ?_, ?_⟩
  · rw [exec_ldByte]
    exact writeResult_readV x kk s
  · rw [exec_ldReg]
    exact writeResult_readV x (s.readV y) s

/-- Settles O22: the answer writes the sum of two bytes, which wraps, to one register. -/
theorem addByteWrapsWithoutFlag : Obligations.AddByteWrapsWithoutFlag := by
  refine fun x kk s => ⟨decodeWord_encode (i := .addByte x kk) rfl, ?_⟩
  rw [exec_addByte]
  obtain ⟨t, ht, hpc, hframe, hx, hr⟩ := writeResult_changesOnly x (s.readV x + kk) s
  exact ⟨t, ht, hpc, hframe, hx ▸ BitVec.toNat_add .., hr⟩

/-- Settles O23: each answer writes one register, and each operation on bytes is the one on their bits. -/
theorem logicIsBitwiseWithoutFlag : Obligations.LogicIsBitwiseWithoutFlag := by
  intro x y s
  rw [exec_orReg, exec_andReg, exec_xorReg]
  exact ⟨writeResult_bitwise or fun _ => BitVec.getLsbD_or, writeResult_bitwise and fun _ => BitVec.getLsbD_and,
    writeResult_bitwise xor fun _ => BitVec.getLsbD_xor⟩

/-- Settles O24: the flag is the carry of the sum that the destination keeps modulo 256. -/
theorem addSetsCarry : Obligations.AddSetsCarry := by
  refine fun x y s => ⟨decodeWord_encode (i := .addReg x y) rfl, ?_⟩
  rw [exec_addReg]
  exact writeFlagged_toNat (carry_toNat _ _) (BitVec.toNat_add ..) x s

/-- Settles O25: the two instructions are one subtraction with the operands exchanged. -/
theorem subtractionsSetNotBorrow : Obligations.SubtractionsSetNotBorrow := by
  refine fun x y s =>
    ⟨⟨decodeWord_encode (i := .subReg x y) rfl, decodeWord_encode (i := .subnReg x y) rfl⟩, ?_, ?_⟩
  · rw [exec_subReg]
    exact writeFlagged_sub x (s.readV x) (s.readV y) s
  · rw [exec_subnReg]
    exact writeFlagged_sub x (s.readV y) (s.readV x) s

/-- Settles O26: the answers do not speak of `y`; a shift by one place halves or doubles, and the bit shifted out is
the remainder or the quotient. -/
theorem shiftsMoveOneBitIntoTheFlag : Obligations.ShiftsMoveOneBitIntoTheFlag := by
  refine fun x y s => ⟨⟨decodeWord_encode (i := .shr x y) rfl, decodeWord_encode (i := .shl x y) rfl⟩, ?_, ?_⟩
  · rw [exec_shr]
    exact writeFlagged_toNat (outRight_toNat _) (toNat_shiftRight_one _) x s
  · rw [exec_shl]
    exact writeFlagged_toNat (outLeft_toNat _) (toNat_shiftLeft_one _) x s

/-- Settles O27: nothing is used of the byte drawn; what bounds the result is the mask. -/
theorem randomByteIsMasked : Obligations.RandomByteIsMasked := by
  intro x kk s
  rw [exec_rnd]
  obtain ⟨t, ht, hpc, ⟨hmem, hi, hstack, hdev, hdraws⟩, hx, hr⟩ :=
    writeResult_changesOnly x (Config.randomByte s.draws &&& kk) (s.setDraws (s.draws + 1))
  refine ⟨t, ht, hpc, hx, hdraws, fun k hk => ?_, ?_, hr, hmem, hi, hstack, hdev⟩
  · rw [hx, BitVec.getLsbD_and, hk, Bool.and_false]
  · rw [hx, BitVec.toNat_and]
    exact Nat.and_le_right

end Sys2Proof.Machine
end

section
/-! The address register (44_address_reg.md R105 to R108; O28, O29): a write of `I` and its frame said once, the answers
of the three instructions, and the addresses they write as numbers. -/

namespace Sys2Proof.Machine

/-! ### A write of `I` (R105) -/

/-- A commit of a new `I` writes `I` and `PC` and nothing else; `n` is the address as a number. -/
theorem commit_setI_changesOnly {w : Word} {n : Nat} (hw : w.toNat = n) (s : State) :
    ∃ t, commit .next (s.setI w) = .next t ∧ t.pc = s.pc + 2 ∧ t.i.toNat = n ∧
      sameRegs s t ∧ sameMem s t ∧ sameStack s t ∧ sameDevices s t ∧ t.draws = s.draws :=
  ⟨_, (commit_eq_next ..).mpr rfl, rfl, hw, fun _ => rfl, fun _ => rfl, ⟨rfl, rfl⟩, ⟨rfl, rfl, rfl, rfl⟩, rfl⟩

/-! ### The answers (R106 to R108) -/

theorem exec_ldI (nnn : Addr12) (s : State) : exec (.ldI nnn) s = commit .next (s.setI (zextAddr nnn)) := rfl

theorem exec_addI (x : RegIdx) (s : State) :
    exec (.addI x) s = commit .next (s.setI (s.i + zextByte (s.readV x))) := rfl

theorem exec_ldF_of_digit {s : State} {x : RegIdx} {d : Fin 16} (hd : (s.readV x).toNat = d.val) :
    exec (.ldF x) s = commit .next (s.setI (glyphAddr d)) :=
  (execLdF_eq_next ..).mpr ⟨d, hd, rfl⟩

theorem exec_ldF_of_no_digit {s : State} {x : RegIdx} (h : 0x0F < (s.readV x).toNat) :
    exec (.ldF x) s = .fault (.outOfBounds .glyphDigit) := by
  have hnone : sixteenIndex (s.readV x) = none := (sixteenIndex_eq_none _).mpr h
  simp only [exec, execLdF, hnone, raise]

/-! ### The addresses as numbers (R107, R108) -/

theorem index_sum_toNat (i : Word) (b : Byte) : (i + zextByte b).toNat = (i.toNat + b.toNat) % 65536 := by
  rw [BitVec.toNat_add, zextByte_toNat]

/-- The last glyph starts at 75, so no address wraps. -/
theorem glyphAddr_toNat (d : Fin 16) : (glyphAddr d).toNat = 5 * d.val := by
  rw [glyphAddr, BitVec.toNat_ofNat]
  omega

/-! ### The statements -/

/-- Settles O28: the word is an encoding, and the address is extended by zeros. -/
theorem addressRegisterLoads : Obligations.AddressRegisterLoads := by
  refine fun nnn s => ⟨decodeWord_encode (i := .ldI nnn) rfl, ?_⟩
  rw [exec_ldI]
  exact commit_setI_changesOnly (zextAddr_toNat nnn) s

/-- Settles O29: the sum wraps in sixteen bits (D3), and a value up to 0xF is a digit whose glyph `I` is set to, where
one above is no digit (D17). -/
theorem addressRegisterArithmetic : Obligations.AddressRegisterArithmetic := by
  refine fun x s => ⟨?_, fun hdigit => ?_, exec_ldF_of_no_digit⟩
  · rw [exec_addI]
    exact commit_setI_changesOnly (index_sum_toNat s.i (s.readV x)) s
  · obtain ⟨d, hd⟩ : ∃ d : Fin 16, (s.readV x).toNat = d.val := ⟨⟨_, Nat.lt_succ_of_le hdigit⟩, rfl⟩
    rw [exec_ldF_of_digit hd, hd]
    exact commit_setI_changesOnly (glyphAddr_toNat d) s

end Sys2Proof.Machine
end

section
/-! The display (45_display.md R110 to R117; O30 to O33): what drawing a set of bits does to a canvas, the loop of R111
as the loop-free draw of R115, the answer of a draw, and the statements. -/

namespace Sys2Proof.Machine

/-! ### Sprite bits on a canvas (R115, R116) -/

/-- The canvas `k'` is `k` with the cells of `on` inverted, and it collides where an inverted pixel was 1. -/
structure Inverts (on : Fin 32 → Fin 64 → Bool) (k k' : Canvas) : Prop where
  pixel (r : Fin 32) (c : Fin 64) : Display.pixel k'.disp r c = (Display.pixel k.disp r c ^^ on r c)
  hit : k'.hit = true ↔
    k.hit = true ∨ ∃ (r : Fin 32) (c : Fin 64), Display.pixel k.disp r c = true ∧ on r c = true

theorem Inverts.of_none {on : Fin 32 → Fin 64 → Bool} (h : ∀ r c, ¬ on r c = true) (k : Canvas) :
    Inverts on k k :=
  ⟨by simp [h], by simp [h]⟩

/-- One plot inverts the one cell it addresses, or none where that lies outside the grid (R114). -/
theorem inverts_plot (row col : Nat) (k : Canvas) :
    Inverts (fun r c => decide (r.val = row ∧ c.val = col)) k (plot row col k) :=
  ⟨plot_pixel row col k, by simp only [plot_hit, decide_eq_true_eq, and_comm, and_assoc]⟩

/-- Bits that share no cell may be drawn one set after the other: the first leaves the pixels that the second meets. -/
theorem Inverts.trans {on on' on'' : Fin 32 → Fin 64 → Bool} {k k' k'' : Canvas}
    (h : Inverts on k k') (h' : Inverts on' k' k'')
    (hor : ∀ r c, on'' r c = true ↔ on r c = true ∨ on' r c = true)
    (hdisjoint : ∀ r c, on r c = true → ¬ on' r c = true) : Inverts on'' k k'' where
  pixel r c := by
    have hxor : on'' r c = (on r c ^^ on' r c) := by
      rw [Bool.eq_iff_iff, hor]
      cases hon : on r c with
      | false => simp
      | true => simp [hdisjoint r c hon]
    rw [h'.pixel, h.pixel, hxor, Bool.xor_assoc]
  hit := by
    have huntouched (r c) : (Display.pixel k'.disp r c = true ∧ on' r c = true) ↔
        (Display.pixel k.disp r c = true ∧ on' r c = true) :=
      and_congr_left fun hon => by
        rw [h.pixel, Bool.eq_false_of_not_eq_true fun hfirst => hdisjoint r c hfirst hon, Bool.xor_false]
    simp only [h'.hit, h.hit, huntouched, hor, and_or_left, exists_or, or_assoc]

/-! ### The loop (R111, R113) -/

/-- The bits of one sprite row in its columns `c, .., c + len - 1`, where they land (R113). -/
def rowBits (b : Byte) (row x0 c len : Nat) (r : Fin 32) (q : Fin 64) : Bool :=
  decide (r.val = row ∧ x0 + c ≤ q.val ∧ q.val < x0 + c + len) && spriteBit b (q.val - x0)

/-- The bits of the sprite rows `bs`, where they land. -/
def rowsBits (x0 row : Nat) (bs : List Byte) (r : Fin 32) (q : Fin 64) : Bool :=
  decide (row ≤ r.val ∧ r.val < row + bs.length ∧ x0 ≤ q.val ∧ q.val < x0 + 8) &&
    spriteBit (bs.getD (r.val - row) 0) (q.val - x0)

theorem rowBits_eq_true {b : Byte} {row x0 c len : Nat} {r : Fin 32} {q : Fin 64} :
    rowBits b row x0 c len r q = true ↔
      (r.val = row ∧ x0 + c ≤ q.val ∧ q.val < x0 + c + len) ∧ spriteBit b (q.val - x0) = true := by
  rw [rowBits, Bool.and_eq_true, decide_eq_true_eq]

theorem rowsBits_eq_true {x0 row : Nat} {bs : List Byte} {r : Fin 32} {q : Fin 64} :
    rowsBits x0 row bs r q = true ↔
      (row ≤ r.val ∧ r.val < row + bs.length ∧ x0 ≤ q.val ∧ q.val < x0 + 8) ∧
        spriteBit (bs.getD (r.val - row) 0) (q.val - x0) = true := by
  rw [rowsBits, Bool.and_eq_true, decide_eq_true_eq]

/-- One column of a row: its cell is inverted when its bit is set. -/
theorem inverts_plot_of_bit (b : Byte) (row x0 c : Nat) (k : Canvas) :
    Inverts (rowBits b row x0 c 1) k (if spriteBit b c then plot row (x0 + c) k else k) := by
  have hcell (r : Fin 32) (q : Fin 64) :
      rowBits b row x0 c 1 r q = true ↔ (r.val = row ∧ q.val = x0 + c) ∧ spriteBit b c = true := by
    rw [rowBits_eq_true]
    constructor
    · rintro ⟨⟨hr, hle, hlt⟩, hbit⟩
      obtain rfl : q.val - x0 = c := by omega
      exact ⟨⟨hr, by omega⟩, hbit⟩
    · rintro ⟨⟨hr, hq⟩, hbit⟩
      exact ⟨⟨hr, by omega, by omega⟩, by rwa [hq, Nat.add_sub_cancel_left]⟩
  by_cases hbit : spriteBit b c = true
  · have hon : rowBits b row x0 c 1 = fun r q => decide (r.val = row ∧ q.val = x0 + c) :=
      funext₂ fun r q => by rw [Bool.eq_iff_iff, hcell, decide_eq_true_eq, and_iff_left hbit]
    rw [if_pos hbit, hon]
    exact inverts_plot row (x0 + c) k
  · rw [if_neg hbit]
    exact .of_none (fun r q hon => hbit ((hcell r q).mp hon).2) k

theorem inverts_plotRow (b : Byte) (row x0 c len : Nat) (k : Canvas) :
    Inverts (rowBits b row x0 c len) k (plotRow b row x0 c len k) := by
  induction len generalizing c k with
  | zero =>
    refine .of_none (fun r q => ?_) k
    rw [rowBits_eq_true]
    omega
  | succ len ih =>
    refine (inverts_plot_of_bit b row x0 c k).trans (ih (c + 1) _) (fun r q => ?_) fun r q => ?_
    · rw [rowBits_eq_true, rowBits_eq_true, rowBits_eq_true, ← or_and_right]
      exact and_congr_left fun _ => by omega
    · rw [rowBits_eq_true, rowBits_eq_true]
      omega

/-- The bits of a sprite are those of its first row and, one row down, those of the rest. -/
theorem rowsBits_cons (x0 row : Nat) (b : Byte) (bs : List Byte) (r : Fin 32) (q : Fin 64) :
    rowsBits x0 row (b :: bs) r q = true ↔
      rowBits b row x0 0 8 r q = true ∨ rowsBits x0 (row + 1) bs r q = true := by
  rw [rowsBits_eq_true, rowBits_eq_true, rowsBits_eq_true, List.length_cons]
  rcases Nat.lt_trichotomy r.val row with hr | hr | hr
  · omega
  · simp [hr]
  · have hlater : r.val - row = r.val - (row + 1) + 1 := by omega
    rw [hlater, List.getD_cons_succ, or_iff_right fun h => hr.ne' h.1.1]
    exact and_congr_left fun _ => by omega

theorem inverts_plotRows (x0 row : Nat) (bs : List Byte) (k : Canvas) :
    Inverts (rowsBits x0 row bs) k (plotRows x0 row bs k) := by
  induction bs generalizing row k with
  | nil =>
    refine .of_none (fun r q => ?_) k
    rw [rowsBits_eq_true, List.length_nil]
    omega
  | cons b bs ih =>
    refine (inverts_plotRow b row x0 0 8 k).trans (ih (row + 1) _) (rowsBits_cons x0 row b bs) fun r q => ?_
    rw [rowBits_eq_true, rowsBits_eq_true]
    omega

/-! ### The answers (R110, R111, R116) -/

theorem exec_cls (s : State) : exec .cls s = commit .next (s.setDisp Display.blank) := rfl

/-- The canvas a draw ends with: the loop of R111 from the present grid and no collision. -/
def drawn (x y : RegIdx) (n : Nat) (s : State) : Canvas :=
  plotRows (spriteCol (s.readV x)) (spriteRow (s.readV y)) (s.mem.readBytes s.i.toNat n) ⟨s.disp, false⟩

/-- The state a draw answers. -/
def State.afterDraw (s : State) (x y : RegIdx) (n : Nat) : State :=
  ((s.writeV flagIdx (flagByte (drawn x y n s).hit)).setDisp (drawn x y n s).disp).setPc (s.pc + 2)

theorem exec_drw_of_inBounds {s : State} {n : Nat} (h : inBounds s.i.toNat n) (x y : RegIdx) :
    exec (.drw x y n) s = .next (s.afterDraw x y n) := if_pos h

theorem exec_drw_of_not_inBounds {s : State} {n : Nat} (h : ¬ inBounds s.i.toNat n) (x y : RegIdx) :
    exec (.drw x y n) s = .fault (.outOfBounds .spriteRead) := if_neg h

theorem eq_afterDraw {x y : RegIdx} {n : Nat} {s t : State} (h : exec (.drw x y n) s = .next t) :
    t = s.afterDraw x y n := by
  rw [exec_drw_of_inBounds (execDrw_eq_next_imp h).1] at h
  exact (Host.Outcome.next.inj h).symm

/-- The bits the loop inverts are those of R115. -/
theorem rowsBits_eq_spriteOn (s : State) (x y : RegIdx) (n : Nat) (r : Fin 32) (q : Fin 64) :
    rowsBits (spriteCol (s.readV x)) (spriteRow (s.readV y)) (s.mem.readBytes s.i.toNat n) r q =
      spriteOn s x y n r q := by
  rw [Bool.eq_iff_iff, rowsBits_eq_true, spriteOn, Bool.and_eq_true, decide_eq_true_eq, Memory.length_readBytes]
  refine and_congr_right fun ⟨hle, hlt, _⟩ => ?_
  rw [List.getD_eq_getElem _ _ (by rw [Memory.length_readBytes]; omega), Memory.getElem_readBytes]
  rfl

/-- The draw of R111 is that of R115. -/
theorem inverts_drawn (x y : RegIdx) (n : Nat) (s : State) :
    Inverts (spriteOn s x y n) ⟨s.disp, false⟩ (drawn x y n s) :=
  funext₂ (rowsBits_eq_spriteOn s x y n) ▸ inverts_plotRows _ _ _ _

/-- A sprite of no rows leaves the grid and reports no collision (D28). -/
theorem drawn_zero (x y : RegIdx) (s : State) : drawn x y 0 s = ⟨s.disp, false⟩ := rfl

theorem State.afterDraw_readV (s : State) (x y : RegIdx) (n : Nat) (r : RegIdx) :
    (s.afterDraw x y n).readV r = if r = 15 then flagByte (drawn x y n s).hit else s.readV r :=
  State.writeV_readV s 15 r _

theorem flagByte_toNat_of_iff {c : Bool} {p : Prop} [Decidable p] (h : c = true ↔ p) :
    (flagByte c).toNat = if p then 1 else 0 := by
  rw [Bool.eq_iff_iff.mpr (h.trans decide_eq_true_iff.symm), flagByte_decide_toNat]

/-- `VF` is 1 exactly when a pixel that was 1 received a 1 (R116). -/
theorem State.afterDraw_flag (s : State) (x y : RegIdx) (n : Nat) :
    ((s.afterDraw x y n).readV 15).toNat =
      if ∃ (row : Fin 32) (col : Fin 64), Display.pixel s.disp row col = true ∧ spriteOn s x y n row col = true
      then 1 else 0 := by
  rw [State.afterDraw_readV, if_pos rfl]
  exact flagByte_toNat_of_iff ((inverts_drawn x y n s).hit.trans (or_iff_right Bool.false_ne_true))

/-- A draw whose coordinates are not in `VF` leaves the sprite's bits where they land. -/
theorem spriteOn_afterDraw {x y : RegIdx} (hx : x ≠ 15) (hy : y ≠ 15) (n : Nat) (s : State) :
    spriteOn (s.afterDraw x y n) x y n = spriteOn s x y n := by
  funext r q
  rw [spriteOn, State.afterDraw_readV, State.afterDraw_readV, if_neg hx, if_neg hy]
  rfl

/-! ### The statements -/

/-- Settles O30: what is written is the blank grid. -/
theorem clearBlanksTheDisplay : Obligations.ClearBlanksTheDisplay := fun s =>
  ⟨_, exec_cls s, rfl, Display.blank_pixel, fun _ => rfl, fun _ => rfl, rfl, ⟨rfl, rfl⟩, rfl, rfl, rfl, rfl⟩

/-- Settles O31: the hypotheses are the test of the sprite's range, and what is written is the flag and the grid. -/
theorem drawCompletesInBounds : Obligations.DrawCompletesInBounds := by
  refine fun x y n s => ⟨fun hin => ⟨s.afterDraw x y n, exec_drw_of_inBounds hin x y, rfl, ?_, fun r hr => ?_, ?_,
    fun _ => rfl, rfl, ⟨rfl, rfl⟩, rfl, rfl, rfl, rfl⟩, fun hn hout => exec_drw_of_not_inBounds (by omega) x y⟩
  · rw [State.afterDraw_readV, if_pos rfl]
    cases (drawn x y n s).hit
    · exact .inl rfl
    · exact .inr rfl
  · rw [State.afterDraw_readV, if_neg hr]
  · rintro rfl
    exact ⟨rfl, by rw [State.afterDraw_readV, if_pos rfl, drawn_zero]; rfl⟩

/-- Settles O32: the loop inverts the pixels under the bits of R115. -/
theorem drawXorsTheClippedSprite : Obligations.DrawXorsTheClippedSprite := by
  intro x y n s t h
  obtain rfl := eq_afterDraw h
  exact ⟨(inverts_drawn x y n s).pixel, s.afterDraw_flag x y n,
    fun r hr => (s.afterDraw_readV x y n r).trans (if_neg hr)⟩

/-- Settles O33: the second draw inverts the same pixels again, and it meets a 1 under a bit where the first met a 0. -/
theorem drawTwiceRestoresTheDisplay : Obligations.DrawTwiceRestoresTheDisplay := by
  intro x y n s t u hx hy ht hu
  obtain rfl := eq_afterDraw ht
  obtain ⟨hpixel, hflag, -⟩ := drawXorsTheClippedSprite x y n _ u hu
  have hfirst (r c) : Display.pixel (s.afterDraw x y n).disp r c = (Display.pixel s.disp r c ^^ spriteOn s x y n r c) :=
    (inverts_drawn x y n s).pixel r c
  simp only [spriteOn_afterDraw hx hy, hfirst] at hpixel hflag
  refine ⟨Display.ext_pixel fun r c => ?_, ?_⟩
  · rw [hpixel, Bool.xor_assoc, Bool.xor_self, Bool.xor_false]
  · have hbit : ∀ p b : Bool, ((p ^^ b) = true ∧ b = true) ↔ (b = true ∧ p = false) := by decide
    exact hflag.trans (if_congr (exists₂_congr fun r c => hbit _ _) rfl rfl)

end Sys2Proof.Machine
end

section
/-! Keys and timers (46_keys_timers.md R119 to R126; O20, O34, O36): the answer of each of the six instructions,
by the key that `V[x]` names or by the keys that are pressed, and the statements from those answers. -/

namespace Sys2Proof.Machine

/-! ### The answers of the key skips (R120, R121, R126) -/

theorem exec_skp_of_no_key {s : State} {x : RegIdx} (h : 0x0F < (s.readV x).toNat) :
    exec (.skp x) s = .fault (.outOfBounds .keyId) := by
  have hnone : sixteenIndex (s.readV x) = none := (sixteenIndex_eq_none _).mpr h
  simp only [exec, execSkp, hnone, raise]

theorem exec_sknp_of_no_key {s : State} {x : RegIdx} (h : 0x0F < (s.readV x).toNat) :
    exec (.sknp x) s = .fault (.outOfBounds .keyId) := by
  have hnone : sixteenIndex (s.readV x) = none := (sixteenIndex_eq_none _).mpr h
  simp only [exec, execSknp, hnone, raise]

theorem exec_skp_of_key {s : State} {x : RegIdx} {k : Fin 16} (hk : (s.readV x).toNat = k.val) :
    exec (.skp x) s = .next (s.setPc (if s.keys[k] then s.pc + 4 else s.pc + 2)) :=
  (execSkp_eq_next ..).mpr ⟨k, hk, rfl⟩

theorem exec_sknp_of_key {s : State} {x : RegIdx} {k : Fin 16} (hk : (s.readV x).toNat = k.val) :
    exec (.sknp x) s = .next (s.setPc (if s.keys[k] then s.pc + 2 else s.pc + 4)) := by
  refine (execSknp_eq_next ..).mpr ⟨k, hk, ?_⟩
  cases s.keys[k] <;> rfl

/-! ### The answers of the key wait (R122) -/

theorem exec_ldVxK_of_none_pressed {s : State} (h : ∀ k : Fin 16, s.keys[k] = false) (x : RegIdx) :
    exec (.ldVxK x) s = .next s :=
  (execLdVxK_eq_next ..).mpr (.inl ⟨(lowestKey_eq_none _).mpr h, rfl⟩)

theorem exec_ldVxK_of_smallest {s : State} {k : Fin 16} (hk : s.keys[k] = true)
    (hlt : ∀ j : Fin 16, j < k → s.keys[j] = false) (x : RegIdx) :
    exec (.ldVxK x) s = writeResult x (BitVec.ofNat 8 k.val) s :=
  (execLdVxK_eq_next ..).mpr (.inr ⟨k, lowestKey_of_smallest hk hlt, rfl⟩)

/-! ### The answers of the timer copies (R123 to R125) -/

theorem exec_ldVxDt (x : RegIdx) (s : State) : exec (.ldVxDt x) s = writeResult x s.dt s := rfl

theorem exec_ldDtVx (x : RegIdx) (s : State) :
    exec (.ldDtVx x) s = .next ((s.setDt (s.readV x)).setPc (s.pc + 2)) := rfl

theorem exec_ldStVx (x : RegIdx) (s : State) :
    exec (.ldStVx x) s = .next ((s.setSt (s.readV x)).setPc (s.pc + 2)) := rfl

/-! ### The statements -/

/-- Settles O20: with `V[x]` a key id both answers move `PC` alone, by the key it names; a larger value names no key
(D16). -/
theorem keySkips : Obligations.KeySkips := fun _ s =>
  ⟨fun _ hk => ⟨⟨_, exec_skp_of_key hk, sameButPc_setPc s _, rfl⟩, ⟨_, exec_sknp_of_key hk, sameButPc_setPc s _, rfl⟩⟩,
    fun h => ⟨exec_skp_of_no_key h, exec_sknp_of_no_key h⟩⟩

/-- Settles O34: with no key pressed the cycle holds; else the smallest pressed id is written to one register (D18). -/
theorem keyWaitStoresTheSmallestKey : Obligations.KeyWaitStoresTheSmallestKey := by
  refine fun x s => ⟨fun hnone => exec_ldVxK_of_none_pressed hnone x, fun k hk hlt => ?_⟩
  rw [exec_ldVxK_of_smallest hk hlt]
  obtain ⟨t, ht, hpc, hframe, hx, hr⟩ := writeResult_changesOnly x (BitVec.ofNat 8 k.val) s
  exact ⟨t, ht, hpc, hx ▸ keyId_toNat k, hr, hframe⟩

/-- Settles O36: the three words are encodings; Fx07 writes one register, and Fx15 and Fx18 write one timer. -/
theorem timerInstructionsCopyBytes : Obligations.TimerInstructionsCopyBytes := by
  refine fun x s => ⟨⟨decodeWord_encode (i := .ldVxDt x) rfl, decodeWord_encode (i := .ldDtVx x) rfl,
    decodeWord_encode (i := .ldStVx x) rfl⟩, ?_, ?_, ?_⟩
  · rw [exec_ldVxDt]
    exact writeResult_readV x s.dt s
  · exact ⟨_, exec_ldDtVx x s, rfl, rfl, fun _ => rfl, fun _ => rfl, rfl, ⟨rfl, rfl⟩, rfl, rfl, rfl, rfl⟩
  · exact ⟨_, exec_ldStVx x s, rfl, rfl, fun _ => rfl, fun _ => rfl, rfl, ⟨rfl, rfl⟩, rfl, rfl, rfl, rfl⟩

end Sys2Proof.Machine
end

section
/-! Memory instructions (47_memory_ops.md R127 to R130; O37 to O40): what a store at `I` writes and leaves alone, said
once for any bytes, the answers of the three instructions, and a word read back from a block write. -/

namespace Sys2Proof.Machine

/-! ### A store at `I` (R127; 20_memory.md R42, R44) -/

/-- A store in range answers a state that differs in its own bytes and in `PC` alone. -/
theorem storeAtI_of_inRange {bs : List Byte} {s : State} (hlow : 0x200 ≤ s.i.toNat)
    (hend : inBounds s.i.toNat bs.length) :
    ∃ t, storeAtI bs s = .next t ∧ t.pc = s.pc + 2 ∧
      (∀ j (hj : j < bs.length), t.mem.read (s.i.toNat + j) = bs[j]) ∧
      (∀ a, ¬ inRange s.i.toNat bs.length a → t.mem.read a = s.mem.read a) ∧ sameButMem s t :=
  ⟨_, (storeAtI_eq_next ..).mpr ⟨hlow, hend, rfl⟩, rfl, Memory.read_writeBytes_inside _ _ _,
    Memory.read_writeBytes_outside _ _ _, fun _ => rfl, rfl, ⟨rfl, rfl⟩, ⟨rfl, rfl, rfl, rfl⟩, rfl⟩

theorem storeAtI_of_reserved {s : State} (h : s.i.toNat < 0x200) (bs : List Byte) :
    storeAtI bs s = .fault (.outOfBounds .reservedStore) :=
  (storeAtI_eq_fault ..).mpr (.inl ⟨h, rfl⟩)

theorem storeAtI_of_not_inBounds {bs : List Byte} {s : State} (hlow : 0x200 ≤ s.i.toNat)
    (hend : ¬ inBounds s.i.toNat bs.length) : storeAtI bs s = .fault (.outOfBounds .store) :=
  (storeAtI_eq_fault ..).mpr (.inr ⟨hlow, hend, rfl⟩)

/-- A store that meets the reserved range or passes the end of memory is `OutOfBounds`. -/
theorem storeAtI_of_outOfRange {bs : List Byte} {s : State}
    (h : s.i.toNat < 0x200 ∨ ¬ inBounds s.i.toNat bs.length) :
    ∃ b, storeAtI bs s = .fault (.outOfBounds b) := by
  by_cases hlow : s.i.toNat < 0x200
  · exact ⟨_, storeAtI_of_reserved hlow bs⟩
  · exact ⟨_, storeAtI_of_not_inBounds (not_lt.mp hlow) (h.resolve_left hlow)⟩

/-! ### The answers (R128 to R130) -/

theorem exec_ldB (x : RegIdx) (s : State) : exec (.ldB x) s = storeAtI (decimalDigits (s.readV x)) s := rfl

theorem exec_stRegs (x : RegIdx) (s : State) : exec (.stRegs x) s = storeAtI (regBytes s x) s := rfl

theorem exec_ldRegs_of_inBounds {s : State} {x : RegIdx} (h : inBounds s.i.toNat (x.val + 1)) :
    exec (.ldRegs x) s = .next ((s.setVs (loadedRegs s s.i.toNat x)).setPc (s.pc + 2)) :=
  (execLdRegs_eq_next ..).mpr ⟨h, rfl⟩

theorem exec_ldRegs_of_not_inBounds {s : State} {x : RegIdx} (h : ¬ inBounds s.i.toNat (x.val + 1)) :
    exec (.ldRegs x) s = .fault (.outOfBounds .load) := if_neg h

/-! ### The decimal digits as numbers (R128) -/

/-- Each of the three digits fits its byte. -/
theorem decimalDigits_toNat (b : Byte) :
    (decimalDigits b)[0].toNat = b.toNat / 100 ∧ (decimalDigits b)[1].toNat = b.toNat / 10 % 10 ∧
      (decimalDigits b)[2].toNat = b.toNat % 10 := by
  have hb : b.toNat < 256 := b.isLt
  simp only [decimalDigits, List.getElem_cons_zero, List.getElem_cons_succ, BitVec.toNat_ofNat]
  omega

/-! ### A word written and read back (20_memory.md R36) -/

theorem Memory.readWord_writeBytes (m : Memory) (a : Nat) (bs : List Byte) (h : 1 < bs.length) :
    (m.writeBytes a bs).readWord a = wordOfBytes bs[0] bs[1] :=
  congrArg₂ wordOfBytes (Memory.read_writeBytes_inside m a bs 0 (Nat.zero_lt_of_lt h))
    (Memory.read_writeBytes_inside m a bs 1 h)

/-! ### The statements -/

/-- Settles O37: the word is an encoding, and the three bytes of the store at `I` are the digits. -/
theorem decimalDigitsAreStored : Obligations.DecimalDigitsAreStored := by
  refine fun x s => ⟨decodeWord_encode (i := .ldB x) rfl, fun hlow hend => ?_, fun hout => ?_⟩
  · obtain ⟨t, ht, hpc, hbytes, hframe⟩ :=
      storeAtI_of_inRange (bs := decimalDigits (s.readV x)) hlow (by rw [decimalDigits_length]; omega)
    obtain ⟨hhundreds, htens, hunits⟩ := decimalDigits_toNat (s.readV x)
    have hbyte (j : Nat) (hj : j < 3) : (t.mem.read (s.i.toNat + j)).toNat = (decimalDigits (s.readV x))[j].toNat :=
      congrArg BitVec.toNat (hbytes j hj)
    exact ⟨t, ht, hpc, (hbyte 0 (by decide)).trans hhundreds, (hbyte 1 (by decide)).trans htens,
      (hbyte 2 (by decide)).trans hunits, hframe⟩
  · exact storeAtI_of_outOfRange (by rw [decimalDigits_length]; omega)

/-- Settles O38: byte `r` of the store at `I` is `V[r]`. -/
theorem registersAreStored : Obligations.RegistersAreStored := by
  refine fun x s => ⟨fun hlow hend => ?_, fun hout => ?_⟩
  · obtain ⟨t, ht, hpc, hbytes, hframe, hsame⟩ := storeAtI_of_inRange (bs := regBytes s x) hlow (by simp; omega)
    refine ⟨t, ht, hpc, fun r hr => ?_, by rwa [regBytes_length] at hframe, hsame⟩
    have hr' : r.val < (regBytes s x).length := by
      rw [regBytes_length]
      exact Nat.lt_succ_of_le hr
    rw [hbytes r hr', regBytes_getElem]
  · exact storeAtI_of_outOfRange (by rw [regBytes_length]; omega)

/-- Settles O39: the word is an encoding, and a load in range replaces `V[0]` to `V[x]` alone. -/
theorem registersAreLoaded : Obligations.RegistersAreLoaded := by
  refine fun x s => ⟨decodeWord_encode (i := .ldRegs x) rfl, fun hend => ?_, fun hout => ?_⟩
  · exact ⟨_, exec_ldRegs_of_inBounds (.inr hend), rfl, sameButRegs_setVs_setPc s _ _,
      fun r => loadedRegs_getElem s s.i.toNat x r⟩
  · exact exec_ldRegs_of_not_inBounds (by omega)

/-- Settles O40: the store begins where `PC` stands after it, so its first two bytes are the next word. -/
theorem storedBytesAreFetchedNext : Obligations.StoredBytesAreFetchedNext := by
  intro x s t hx hp hi h
  obtain ⟨-, -, rfl⟩ := (storeAtI_eq_next ..).mp h
  have hpc : (s.pc + 2).toNat = s.i.toNat := by rw [hi, toNat_add_two (by omega)]
  refine (fetchWord_eq_ok ..).mpr ⟨?_, ?_⟩
  · show (s.pc + 2).toNat ≤ 0xFFE
    omega
  · show _ = (s.mem.writeBytes s.i.toNat (regBytes s x)).readWord (s.pc + 2).toNat
    rw [hpc, Memory.readWord_writeBytes _ _ _ (by rw [regBytes_length]; omega), regBytes_getElem, regBytes_getElem]
    rfl

end Sys2Proof.Machine
end

section
/-! The host's transactions (48_host_interface.md R135 to R146; O8, O51 to O55): LOAD where the bytes fit and where they
do not, cycles counted from the last, SNAPSHOT and RESTORE, and the display as one list. -/

namespace Sys2Proof.Machine

/-! ### LOAD (R135, R136) -/

theorem load_of_too_long {addr : Word} {bytes : List Byte} (h : 0x1000 < addr.toNat + bytes.length) (s : State) :
    load addr bytes s = (s, .refused) := if_pos h

theorem load_of_fits {addr : Word} {bytes : List Byte} (h : addr.toNat + bytes.length ≤ 0x1000) (s : State) :
    load addr bytes s = (s.setMem (s.mem.writeBytes addr.toNat bytes), .accepted) := if_neg (not_lt.mpr h)

theorem Memory.readWord_writeBytes_encodeBytes (m : Memory) (a : Nat) (i : Instr) :
    (m.writeBytes a (encodeBytes i)).readWord a = encode i :=
  (Memory.readWord_writeBytes m a (encodeBytes i) Nat.one_lt_two).trans (wordOfBytes_highByte_lowByte _)

/-! ### Cycles in a row (R138, R139) -/

theorem cycles_succ (n : Nat) (r : State × Status) : cycles (n + 1) r = cycle (cycles n r).1 := by
  induction n generalizing r with
  | zero => rfl
  | succ n ih => exact ih (cycle r.1)

/-- A cycle that is not `Ok` is repeated by the next one, so one that is `Ok` follows none but `Ok`. -/
theorem cycle_ok_of_next_cycle_ok {s : State} (h : (cycle (cycle s).1).2 = .ok) : (cycle s).2 = .ok := by
  by_contra hne
  rw [cycle_state_of_status_ne_ok hne] at h
  exact hne h

theorem cycles_ok_of_next_cycle_ok {s : State} (n : Nat) (h : (cycle (cycles n (s, .ok)).1).2 = .ok) :
    (cycles n (s, .ok)).2 = .ok := by
  cases n with
  | zero => rfl
  | succ n =>
    rw [cycles_succ] at h ⊢
    exact cycle_ok_of_next_cycle_ok h

/-- The last of `n` cycles is `Ok` exactly when each of them is. -/
theorem cycles_ok_iff (s : State) (n : Nat) :
    (cycles n (s, .ok)).2 = .ok ↔ ∀ k, k < n → (cycle (cycles k (s, .ok)).1).2 = .ok := by
  induction n with
  | zero => exact iff_of_true rfl fun k hk => absurd hk (Nat.not_lt_zero k)
  | succ n ih =>
    rw [Nat.forall_lt_succ_right, ← ih, cycles_succ]
    exact (and_iff_right_of_imp (cycles_ok_of_next_cycle_ok n)).symm

theorem stepN_of_ne_zero {n : Word} (hn : n ≠ 0) (s : State) :
    stepN n s = ((cycles n.toNat (s, .ok)).1, .status (cycles n.toNat (s, .ok)).2) :=
  if_neg fun h0 => hn (BitVec.eq_of_toNat_eq h0)

/-! ### SNAPSHOT and RESTORE (R145, R146) -/

/-- `SP` is at most 16, so its five bits hold it. -/
theorem snapshot_sp_toNat (s : State) : (snapshot s).sp.toNat = s.sp.val := by
  have hsp := s.sp.isLt
  rw [snapshot, BitVec.toNat_ofNat]
  omega

theorem restore_of_sp_above {p : Snapshot} (h : 16 < p.sp.toNat) (u : State) : restore p u = none :=
  dif_neg (Nat.not_lt.mpr h)

/-- The record of a state with canonical memory brings back every element but the keys and the count of draws. -/
theorem restore_snapshot {s : State} (hm : s.mem.wf) (u : State) :
    restore (snapshot s) u = some ((s.setKeys u.keys).setDraws u.draws) := by
  have hsp : (snapshot s).sp.toNat < 17 := (snapshot_sp_toNat s).trans_lt s.sp.isLt
  have hsp' : (⟨(snapshot s).sp.toNat, hsp⟩ : Fin 17) = s.sp := Fin.ext (snapshot_sp_toNat s)
  have hm' : (snapshot s).mem.wf := hm
  simp only [restore, dif_pos hsp, if_pos hm', hsp']
  rfl

/-! ### DISPLAY_READ (R141) -/

/-- Row after row, the pixels are the flattened grid. -/
theorem displayRead_eq_flatten (s : State) : displayRead s = s.disp.flatten.toList := by
  simp [displayRead, Vector.flatten, List.flatMap_def, Vector.toList, Function.comp_def]

theorem displayRead_length (s : State) : (displayRead s).length = 2048 := by
  rw [displayRead_eq_flatten, Vector.length_toList]

theorem displayRead_getElem? (s : State) (r : Fin 32) (q : Fin 64) :
    (displayRead s)[64 * r.val + q.val]? = some (Display.pixel s.disp r q) := by
  have hlt : 64 * r.val + q.val < 32 * 64 := by omega
  have hrow : (64 * r.val + q.val) / 64 = r.val := by omega
  have hcol : (64 * r.val + q.val) % 64 = q.val := by omega
  rw [displayRead_eq_flatten, List.getElem?_eq_getElem (by simpa using hlt), Vector.getElem_toList,
    Vector.getElem_flatten hlt]
  simp only [hrow, hcol]
  rfl

/-! ### The statements -/

/-- Settles O51: the bytes that fit are one block write, and nothing else is touched. -/
theorem loadCopiesOrRefuses : Obligations.LoadCopiesOrRefuses := by
  refine fun c addr bytes s => ⟨fun hlong => load_of_too_long hlong s, fun hfits => ?_⟩
  have hload : transact c (.load addr bytes) s = _ := load_of_fits hfits s
  rw [hload]
  exact ⟨rfl, Memory.read_writeBytes_inside _ _ _, Memory.read_writeBytes_outside _ _ _, rfl,
    fun _ => rfl, rfl, ⟨rfl, rfl⟩, ⟨rfl, rfl, rfl, rfl⟩, rfl⟩

/-- Settles O52: `n + 1` cycles are a cycle after `n`, and a status other than `Ok`, once returned, stays. -/
theorem stepNRunsExactlyNCycles : Obligations.StepNRunsExactlyNCycles := by
  refine fun c s => ⟨rfl, fun n hn => ?_⟩
  have hstepN : transact c (.stepN n) s = _ := stepN_of_ne_zero hn s
  refine ⟨hstepN, fun k => cycles_succ k (s, .ok), ?_⟩
  rw [hstepN, Reply.status.injEq]
  exact cycles_ok_iff s n.toNat

/-- Settles O53: what RESTORE gives of a record depends on the present state by the keys and the draws alone, whatever
the run before it. -/
theorem restoreBringsTheSnapshotBack : Obligations.RestoreBringsTheSnapshotBack := by
  refine fun c ts s => ⟨rfl, fun hm => ?_, fun p hp => ?_⟩
  · simp only [transact, restore_snapshot hm]
  · simp only [transact, restore_of_sp_above hp]

/-- Settles O54: the flattened grid has pixel `c` of row `r` at `64 * r + c` (D35). -/
theorem displayReadIsRowMajor : Obligations.DisplayReadIsRowMajor :=
  fun _ s => ⟨displayRead s, rfl, displayRead_length s, displayRead_getElem? s⟩

/-- Settles O8: the two bytes fit, and the word read back from them is the encoding. -/
theorem loadedInstructionRunsNext : Obligations.LoadedInstructionRunsNext := by
  intro c s t i hi hp h
  have hfits : s.pc.toNat + (encodeBytes i).length ≤ 0x1000 := Nat.add_le_add_right hp 2
  obtain rfl : s.setMem (s.mem.writeBytes s.pc.toNat (encodeBytes i)) = t :=
    congrArg Prod.fst ((load_of_fits hfits s).symm.trans h)
  refine ⟨rfl, step_of_decoded hp ?_⟩
  exact (congrArg decodeWord (Memory.readWord_writeBytes_encodeBytes s.mem s.pc.toNat i)).trans (decodeWord_encode hi)

/-- Settles O55: a write of one key, and the timer accessors by what they are. -/
theorem keyAndTimerAccessors : Obligations.KeyAndTimerAccessors :=
  fun _ s k b _ => ⟨fun j => keyWrite_keys k j b s, rfl, rfl, rfl, rfl, rfl⟩

end Sys2Proof.Machine
end

section
/-! Errors and their causes (60_exceptions.md R149 to R163; O9 to O11, O56): `Raises` lists what each instruction can
raise and when, `exec_eq_fault` ties it to `exec`, and the causes of each status are read off it; and the tick of the
assumed clock. -/

namespace Sys2Proof.Machine

/-! ### What an instruction raises (R152 to R154) -/

/-- The errors of the execute phase: one case for each instruction and cause. -/
inductive Raises (s : State) : Instr → Fault → Prop
  | fullStack (nnn) (h : s.sp.val = 16) : Raises s (.call nnn) .stackOverflow
  | emptyStack (h : s.sp.val = 0) : Raises s .ret .stackUnderflow
  | sprite (x y) {n} (hn : 1 ≤ n) (h : 0xFFF < s.i.toNat + n - 1) : Raises s (.drw x y n) (.outOfBounds .spriteRead)
  | load {x} (h : 0xFFF < s.i.toNat + x.val) : Raises s (.ldRegs x) (.outOfBounds .load)
  | storeRegs {x} (h : 0xFFF < s.i.toNat + x.val) : Raises s (.stRegs x) (.outOfBounds .store)
  | storeDigits (x) (h : 0xFFF < s.i.toNat + 2) : Raises s (.ldB x) (.outOfBounds .store)
  | reserved {i} (hi : (∃ x, i = .stRegs x) ∨ ∃ x, i = .ldB x) (h : s.i.toNat < 0x200) :
      Raises s i (.outOfBounds .reservedStore)
  | key {i x} (hi : i = .skp x ∨ i = .sknp x) (h : 0x0F < (s.readV x).toNat) : Raises s i (.outOfBounds .keyId)
  | digit {x} (h : 0x0F < (s.readV x).toNat) : Raises s (.ldF x) (.outOfBounds .glyphDigit)

theorem exec_of_raises {s : State} {i : Instr} {f : Fault} (h : Raises s i f) : exec i s = .fault f := by
  cases h with
  | fullStack nnn h => exact exec_call_of_full h nnn
  | emptyStack h => exact exec_ret_of_empty h
  | sprite x y hn h => exact exec_drw_of_not_inBounds (by omega) x y
  | load h => exact exec_ldRegs_of_not_inBounds (by omega)
  | storeRegs h => exact storeAtI_of_not_inBounds (by omega) (by rw [regBytes_length]; omega)
  | storeDigits x h => exact storeAtI_of_not_inBounds (by omega) (by rw [decimalDigits_length]; omega)
  | reserved hi h => rcases hi with ⟨x, rfl⟩ | ⟨x, rfl⟩ <;> exact storeAtI_of_reserved h _
  | key hi h =>
    rcases hi with rfl | rfl
    · exact exec_skp_of_no_key h
    · exact exec_sknp_of_no_key h
  | digit h => exact exec_ldF_of_no_digit h

/-- A store at `I` answers, or meets the reserved range, or passes the end of memory. -/
theorem storeAtI_next_or_raises {i : Instr} {bs : List Byte} {s : State}
    (hi : (∃ x, i = .stRegs x) ∨ ∃ x, i = .ldB x)
    (hend : ¬ inBounds s.i.toNat bs.length → Raises s i (.outOfBounds .store)) :
    (∃ t, storeAtI bs s = .next t) ∨ ∃ f, Raises s i f := by
  by_cases hlow : s.i.toNat < 0x200
  · exact .inr ⟨_, .reserved hi hlow⟩
  · by_cases hin : inBounds s.i.toNat bs.length
    · exact .inl ⟨_, (storeAtI_eq_next ..).mpr ⟨not_lt.mp hlow, hin, rfl⟩⟩
    · exact .inr ⟨_, hend hin⟩

/-- A byte is one of the sixteen indices, or it is above 0xF. -/
theorem index_or_above (b : Byte) : (∃ k : Fin 16, b.toNat = k.val) ∨ 0x0F < b.toNat :=
  (Nat.lt_or_ge b.toNat 16).imp_left fun h => ⟨⟨b.toNat, h⟩, rfl⟩

/-- Every instruction answers a next state or has a cause to raise an error; none is refused. -/
theorem exec_next_or_raises (i : Instr) (s : State) : (∃ t, exec i s = .next t) ∨ ∃ f, Raises s i f := by
  cases i with
  | ret =>
    by_cases hsp : s.sp.val = 0
    · exact .inr ⟨_, .emptyStack hsp⟩
    · exact .inl ⟨_, exec_ret_of_top (j := ⟨s.sp.val - 1, by omega⟩) (Nat.succ_pred hsp).symm⟩
  | call nnn =>
    by_cases hsp : s.sp.val = 16
    · exact .inr ⟨_, .fullStack nnn hsp⟩
    · exact .inl ⟨_, exec_call_of_free (j := ⟨s.sp.val, by omega⟩) rfl nnn⟩
  | drw x y n =>
    by_cases hin : inBounds s.i.toNat n
    · exact .inl ⟨_, exec_drw_of_inBounds hin x y⟩
    · exact .inr ⟨_, .sprite x y (by omega) (by omega)⟩
  | skp x =>
    rcases index_or_above (s.readV x) with ⟨k, hk⟩ | habove
    · exact .inl ⟨_, exec_skp_of_key hk⟩
    · exact .inr ⟨_, .key (.inl rfl) habove⟩
  | sknp x =>
    rcases index_or_above (s.readV x) with ⟨k, hk⟩ | habove
    · exact .inl ⟨_, exec_sknp_of_key hk⟩
    · exact .inr ⟨_, .key (.inr rfl) habove⟩
  | ldF x =>
    rcases index_or_above (s.readV x) with ⟨d, hd⟩ | habove
    · exact .inl ⟨_, exec_ldF_of_digit hd⟩
    · exact .inr ⟨_, .digit habove⟩
  | ldVxK x =>
    cases hk : lowestKey s.keys with
    | none => exact .inl ⟨_, (execLdVxK_eq_next ..).mpr (.inl ⟨hk, rfl⟩)⟩
    | some k => exact .inl ⟨_, (execLdVxK_eq_next ..).mpr (.inr ⟨k, hk, rfl⟩)⟩
  | ldB x =>
    exact storeAtI_next_or_raises (.inr ⟨x, rfl⟩) fun hout =>
      .storeDigits x (by rw [decimalDigits_length] at hout; omega)
  | stRegs x =>
    exact storeAtI_next_or_raises (.inl ⟨x, rfl⟩) fun hout =>
      .storeRegs (by rw [regBytes_length] at hout; omega)
  | ldRegs x =>
    by_cases hin : inBounds s.i.toNat (x.val + 1)
    · exact .inl ⟨_, exec_ldRegs_of_inBounds hin⟩
    · exact .inr ⟨_, .load (by omega)⟩
  | cls | jp | ldI | jpV0 | ldDtVx | ldStVx | addI => exact .inl ⟨_, (commit_eq_next ..).mpr rfl⟩
  | seByte | sneByte | seReg | sneReg => exact .inl ⟨_, (skipWhen_eq_next ..).mpr rfl⟩
  | ldByte | addByte | ldReg | orReg | andReg | xorReg | rnd | ldVxDt =>
    exact .inl ⟨_, (writeResult_eq_next ..).mpr rfl⟩
  | addReg | subReg | shr | subnReg | shl => exact .inl ⟨_, (writeFlagged_eq_next ..).mpr rfl⟩

theorem exec_eq_fault (i : Instr) (s : State) (f : Fault) : exec i s = .fault f ↔ Raises s i f := by
  refine ⟨fun h => ?_, exec_of_raises⟩
  rcases exec_next_or_raises i s with ⟨t, ht⟩ | ⟨g, hg⟩
  · cases ht.symm.trans h
  · obtain rfl := Host.Outcome.fault.inj ((exec_of_raises hg).symm.trans h)
    exact hg

/-! ### The errors by their name -/

theorem not_raises_decodeError (s : State) (i : Instr) : ¬ Raises s i .decodeError := nofun

theorem not_raises_unsupported (s : State) (i : Instr) (w : Word) : ¬ Raises s i (.unsupportedInstruction w) := nofun

theorem raises_stackOverflow (s : State) (i : Instr) :
    Raises s i .stackOverflow ↔ s.sp.val = 16 ∧ ∃ nnn, i = .call nnn := by
  constructor
  · intro h
    cases h with
    | fullStack nnn hsp => exact ⟨hsp, nnn, rfl⟩
  · rintro ⟨hsp, nnn, rfl⟩
    exact .fullStack nnn hsp

theorem raises_stackUnderflow (s : State) (i : Instr) : Raises s i .stackUnderflow ↔ s.sp.val = 0 ∧ i = .ret := by
  constructor
  · intro h
    cases h with
    | emptyStack hsp => exact ⟨hsp, rfl⟩
  · rintro ⟨hsp, rfl⟩
    exact .emptyStack hsp

/-! ### What a step raises (R149 to R154) -/

/-- The causes of a step's error in the order of 40_step_cycle.md R73: the fetch's two, the decode's, the
instruction's own. -/
theorem step_eq_fault (s : State) (f : Fault) :
    step s = .fault f ↔
      (0x1000 ≤ s.pc.toNat ∧ f = .outOfBounds .fetch) ∨
      (s.pc.toNat = 0xFFF ∧ f = .decodeError) ∨
      (s.pc.toNat ≤ 0xFFE ∧ (∀ i, decodeWord (s.mem.readWord s.pc.toNat) ≠ .ok i) ∧
        f = .unsupportedInstruction (s.mem.readWord s.pc.toNat)) ∨
      (s.pc.toNat ≤ 0xFFE ∧ ∃ i, decodeWord (s.mem.readWord s.pc.toNat) = .ok i ∧ Raises s i f) := by
  constructor
  · intro h
    rcases (by omega : 0x1000 ≤ s.pc.toNat ∨ s.pc.toNat = 0xFFF ∨ s.pc.toNat ≤ 0xFFE) with hp | hp | hp
    · exact .inl ⟨hp, Host.Outcome.fault.inj (h.symm.trans (step_of_pc_outside hp))⟩
    · exact .inr (.inl ⟨hp, Host.Outcome.fault.inj (h.symm.trans (step_of_pc_last hp))⟩)
    · by_cases hd : ∃ i, decodeWord (s.mem.readWord s.pc.toNat) = .ok i
      · obtain ⟨i, hi⟩ := hd
        exact .inr (.inr (.inr ⟨hp, i, hi, (exec_eq_fault i s f).mp ((step_of_decoded hp hi).symm.trans h)⟩))
      · have hd' := not_exists.mp hd
        exact .inr (.inr (.inl ⟨hp, hd', Host.Outcome.fault.inj (h.symm.trans (step_of_undecoded hp hd'))⟩))
  · rintro (⟨hp, rfl⟩ | ⟨hp, rfl⟩ | ⟨hp, hd, rfl⟩ | ⟨hp, i, hi, hr⟩)
    · exact step_of_pc_outside hp
    · exact step_of_pc_last hp
    · exact step_of_undecoded hp hd
    · exact (step_of_decoded hp hi).trans (exec_of_raises hr)

/-! ### A tick (R163) -/

/-- A counter goes down by one and stops at zero. -/
theorem tickByte_toNat (b : Byte) : (tickByte b).toNat = b.toNat - 1 := by
  unfold tickByte
  split
  · next h => rw [h]; rfl
  · next h => bv_omega

theorem run_tick (c : Config.Params) (s : State) :
    run c (tick s) s = (s.setDt (tickByte s.dt)).setSt (tickByte s.st) := rfl

/-- A write of both timers touches nothing else: with their old values put back the state is the old one. -/
theorem State.setTimers_restored (s : State) (a b : Byte) :
    (((s.setDt a).setSt b).setDt s.dt).setSt s.st = s := rfl

/-! ### The statements -/

/-- Settles O9: of the causes of a step's error each of the four statuses has one. -/
theorem faultsHaveTheirCauses : Obligations.FaultsHaveTheirCauses := by
  intro s
  simp only [step_eq_fault, not_raises_decodeError, not_raises_unsupported, raises_stackOverflow,
    raises_stackUnderflow, reduceCtorEq, Fault.unsupportedInstruction.injEq, and_false, and_true, exists_false,
    or_false, false_or]
  refine ⟨trivial, ?_, and_congr_right fun _ => ?_, and_congr_right fun _ => ?_⟩
  · exact ⟨fun ⟨_, hp, hd, _⟩ => ⟨hp, hd⟩, fun ⟨hp, hd⟩ => ⟨_, hp, hd, rfl⟩⟩
  · exact ⟨fun ⟨i, hi, hsp, nnn, hcall⟩ => ⟨hsp, nnn, hcall ▸ hi⟩, fun ⟨hsp, nnn, hd⟩ => ⟨_, hd, hsp, nnn, rfl⟩⟩
  · exact ⟨fun ⟨i, hi, hsp, hret⟩ => ⟨hsp, hret ▸ hi⟩, fun ⟨hsp, hd⟩ => ⟨_, hd, hsp, rfl⟩⟩

/-- Settles O10: an instruction's faults are the causes of `Raises`. -/
theorem outOfBoundsHasItsCauses : Obligations.OutOfBoundsHasItsCauses := by
  intro i s b
  rw [exec_eq_fault]
  constructor
  · intro h
    cases h with
    | sprite x y hn h => exact .inl ⟨rfl, x, y, _, rfl, hn, h⟩
    | load h => exact .inr (.inl ⟨rfl, _, rfl, h⟩)
    | storeRegs h => exact .inr (.inr (.inl ⟨rfl, .inl ⟨_, rfl, h⟩⟩))
    | storeDigits x h => exact .inr (.inr (.inl ⟨rfl, .inr ⟨x, rfl, h⟩⟩))
    | reserved hi h => exact .inr (.inr (.inr (.inl ⟨rfl, h, hi⟩)))
    | key hi h => exact .inr (.inr (.inr (.inr (.inl ⟨rfl, _, hi, h⟩))))
    | digit h => exact .inr (.inr (.inr (.inr (.inr ⟨rfl, _, rfl, h⟩))))
  · rintro (⟨rfl, x, y, n, rfl, hn, h⟩ | ⟨rfl, x, rfl, h⟩ | ⟨rfl, ⟨x, rfl, h⟩ | ⟨x, rfl, h⟩⟩ | ⟨rfl, h, hi⟩ |
      ⟨rfl, x, hi, h⟩ | ⟨rfl, x, rfl, h⟩)
    · exact .sprite x y hn h
    · exact .load h
    · exact .storeRegs h
    · exact .storeDigits x h
    · exact .reserved hi h
    · exact .key hi h
    · exact .digit h

/-- Settles O11: an instruction that does not answer raises an error of its own. -/
theorem eachInstructionRaisesOnlyItsOwnStatus : Obligations.EachInstructionRaisesOnlyItsOwnStatus := by
  refine fun i s => (exec_next_or_raises i s).imp_right fun ⟨f, h⟩ => ⟨f, exec_of_raises h, ?_⟩
  cases h with
  | fullStack | emptyStack | sprite | load | storeRegs | storeDigits | digit => rfl
  | reserved hi => rcases hi with ⟨x, rfl⟩ | ⟨x, rfl⟩ <;> rfl
  | key hi => rcases hi with rfl | rfl <;> rfl

/-- Settles O56: the tick writes the two timers, each lowered by one unless it is zero. -/
theorem tickDecrementsNonZeroTimers : Obligations.TickDecrementsNonZeroTimers := by
  intro c s
  rw [run_tick, State.setTimers_restored]
  exact ⟨tickByte_toNat s.dt, tickByte_toNat s.st, sameButRegs_of_eq rfl rfl rfl rfl rfl rfl rfl rfl rfl,
    sameRegs_of_eq rfl, rfl⟩

end Sys2Proof.Machine
end
